-- ==== Sys2Proof/Word.lean ====
section
/-! DEFINITION. The word types of the controller (spec 00 R10, 20 R80): bytes, 16, 32 and 64-bit quantities,
opaque handles, and a fixed bank of like registers read and written by index. -/

namespace Sys2Proof

/-- One byte of DMA memory (20 R80). -/
abbrev Byte := BitVec 8

/-- A 16-bit field: a descriptor's `status` (30 R121). -/
abbrev Half := BitVec 16

/-- A 32-bit register or `lstatus` word (30 R121, R130). -/
abbrev Word := BitVec 32

/-- A 64-bit quantity: an address, an operand or a result (30 R131). -/
abbrev DWord := BitVec 64

/-- A buffer handle: a 64-bit opaque number (10 R30). -/
abbrev Handle := BitVec 64

/-- The number of addresses of DMA memory: a 64-bit byte address (20 R80). -/
def addressSpace : Nat := 2 ^ 64

/-- The element of a bank at index `i`; `d` where the bank has no such element. -/
def bankGet {α : Type} {n : Nat} (v : Vector α n) (d : α) (i : Nat) : α := if h : i < n then v[i] else d

/-- The bank with the element at index `i` replaced; the same bank where it has no such element. -/
def bankSet {α : Type} {n : Nat} (v : Vector α n) (i : Nat) (x : α) : Vector α n := v.setIfInBounds i x

end Sys2Proof
end

