-- ==== Sys2Proof/Syntax.lean ====
section
/-! DEFINITION. The 25 operations of the controller (spec 30 R140), one constructor per row of the opcode table.
`ctx` is the issuing context (bits 23:16 of the command word), `q` and `g` are `idx` (bits 15:8); the modifier
bits of `sub` (bits 7:0) are the fields `kind`, `up` and `full` (30 R127, R128). -/

namespace Sys2Proof

/-- A queue kind: `sub[0]` = 0 is `RX`, 1 is `TX` (30 R128). -/
inductive Kind where
  | rx
  | tx
  deriving DecidableEq, Repr, Inhabited

/-- An operation of the controller, as a command word names it (30 R127, R140). -/
inductive Instr where
  | nop (ctx : BitVec 8)
  | poolInit (ctx : BitVec 8)
  | poolTeardown (ctx : BitVec 8)
  | acquire (ctx : BitVec 8)
  | release (ctx : BitVec 8)
  | submit (ctx : BitVec 8) (q : BitVec 8)
  | submitSeg (ctx : BitVec 8) (q : BitVec 8)
  | irq (ctx : BitVec 8) (g : BitVec 8)
  | groupPoll (ctx : BitVec 8) (g : BitVec 8)
  | maskAll (ctx : BitVec 8) (g : BitVec 8)
  | unmaskDefault (ctx : BitVec 8) (g : BitVec 8)
  | setCoalesce (ctx : BitVec 8) (kind : Kind) (q : BitVec 8)
  | start (ctx : BitVec 8)
  | halt (ctx : BitVec 8)
  | changeMtu (ctx : BitVec 8)
  | linkChange (ctx : BitVec 8) (up : Bool) (full : Bool)
  | resetTask (ctx : BitVec 8)
  | txTimeout (ctx : BitVec 8) (q : BitVec 8)
  | readStats (ctx : BitVec 8)
  | ringInit (ctx : BitVec 8) (kind : Kind) (q : BitVec 8)
  | armRx (ctx : BitVec 8) (q : BitVec 8)
  | slotReady (ctx : BitVec 8) (kind : Kind) (q : BitVec 8)
  | ringNext (ctx : BitVec 8) (kind : Kind) (q : BitVec 8)
  | rxPoll (ctx : BitVec 8) (q : BitVec 8)
  | txPoll (ctx : BitVec 8) (q : BitVec 8)
  deriving DecidableEq, Repr, Inhabited

/-- The issuing context of an operation (30 R127, `ctx`). -/
def Instr.ctx : Instr → BitVec 8
  | .nop c => c
  | .poolInit c => c
  | .poolTeardown c => c
  | .acquire c => c
  | .release c => c
  | .submit c _ => c
  | .submitSeg c _ => c
  | .irq c _ => c
  | .groupPoll c _ => c
  | .maskAll c _ => c
  | .unmaskDefault c _ => c
  | .setCoalesce c _ _ => c
  | .start c => c
  | .halt c => c
  | .changeMtu c => c
  | .linkChange c _ _ => c
  | .resetTask c => c
  | .txTimeout c _ => c
  | .readStats c => c
  | .ringInit c _ _ => c
  | .armRx c _ => c
  | .slotReady c _ _ => c
  | .ringNext c _ _ => c
  | .rxPoll c _ => c
  | .txPoll c _ => c

/-- The six micro-operations, `kind` = `micro` in 30 R140: never started from a command bank (30 R142). -/
def Instr.isMicro : Instr → Bool
  | .ringInit _ _ _ => true
  | .armRx _ _ => true
  | .slotReady _ _ _ => true
  | .ringNext _ _ _ => true
  | .rxPoll _ _ => true
  | .txPoll _ _ => true
  | .nop _ => false
  | .poolInit _ => false
  | .poolTeardown _ => false
  | .acquire _ => false
  | .release _ => false
  | .submit _ _ => false
  | .submitSeg _ _ => false
  | .irq _ _ => false
  | .groupPoll _ _ => false
  | .maskAll _ _ => false
  | .unmaskDefault _ _ => false
  | .setCoalesce _ _ _ => false
  | .start _ => false
  | .halt _ => false
  | .changeMtu _ => false
  | .linkChange _ _ _ => false
  | .resetTask _ => false
  | .txTimeout _ _ => false
  | .readStats _ => false

end Sys2Proof
end

