-- ==== Sys2Proof/WellFormed.lean ====
section
/-! DEFINITION. Which operations a command bank of the controller can carry: the context of a command word "must
equal the bank index" (spec 30 R127), and there are 16 banks (30 R130). Every other field admits every value: an
index or operand out of range makes the operation end with `ERR_BAD_ARG` (30 R128), it is not ill-formed. -/

namespace Sys2Proof

/-- The number of command banks (30 R130: bank `c` at `0x40*c`, `c < 16`). -/
def numBanks : Nat := 16

/-- The operation names a context that has a command bank (30 R127, R130). -/
def Instr.wellFormed (i : Instr) : Bool := decide (i.ctx.toNat < numBanks)

end Sys2Proof
end

