-- ==== Sys2Proof/Decode.lean ====
section
/-! DEFINITION. Decoding of the command word (spec 30 R127, R140, R141), total on any bytes, and after it the
encoder. The decoder reads the four byte fields of the word; `opcodeTable` is the table of 30 R140 as it stands
there (match and mask), and the two are held against each other in the tests and in the statements. -/

namespace Sys2Proof

/-- Why four bytes are no operation of the controller (30 R141). -/
inductive DecodeError where
  /-- fewer than four bytes: a command word is 32 bits (30 R127) -/
  | truncated
  /-- an `op` the map does not list (30 R141) -/
  | unlistedOp (op : BitVec 8)
  /-- a listed `op` whose mask requires `idx` to be zero, with a nonzero `idx` (30 R141) -/
  | nonzeroIdx (op idx : BitVec 8)
  /-- a listed `op` with a nonzero bit of `sub` where its mask requires zero (30 R141) -/
  | nonzeroSub (op sub : BitVec 8)
  deriving DecidableEq, Repr

/-- The four byte fields of a command word, format `C` (30 R127). -/
structure CommandFields where
  op : BitVec 8
  ctx : BitVec 8
  idx : BitVec 8
  sub : BitVec 8
  deriving DecidableEq, Repr

/-- The fields of a word: `op` 31:24, `ctx` 23:16, `idx` 15:8, `sub` 7:0 (30 R127). -/
def commandFields (w : Word) : CommandFields :=
  { op := w.extractLsb' 24 8, ctx := w.extractLsb' 16 8, idx := w.extractLsb' 8 8, sub := w.extractLsb' 0 8 }

/-- The word of four fields (30 R127). -/
def commandWord (f : CommandFields) : Word := f.op ++ f.ctx ++ f.idx ++ f.sub

/-- The kind bit `sub[0]`: 0 = `RX`, 1 = `TX` (30 R128). -/
def kindOfBit (b : Bool) : Kind := if b then .tx else .rx

/-- The kind as its bit (30 R128). -/
def bitOfKind (k : Kind) : BitVec 8 :=
  match k with
  | .rx => 0
  | .tx => 1

/-- An operation without `idx` and `sub`: both must be zero (mask 0xFF00FFFF of 30 R140). -/
def plainOp (f : CommandFields) (i : Instr) : Except DecodeError Instr :=
  if f.idx ≠ 0 then .error (.nonzeroIdx f.op f.idx)
  else if f.sub ≠ 0 then .error (.nonzeroSub f.op f.sub)
  else .ok i

/-- An operation with an index and no modifier (mask 0xFF0000FF of 30 R140). -/
def indexedOp (f : CommandFields) (i : Instr) : Except DecodeError Instr :=
  if f.sub ≠ 0 then .error (.nonzeroSub f.op f.sub) else .ok i

/-- An operation with an index and the kind bit (mask 0xFF0000FE of 30 R140). -/
def kindedOp (f : CommandFields) (mk : Kind → Instr) : Except DecodeError Instr :=
  if f.sub &&& 0xFE ≠ 0 then .error (.nonzeroSub f.op f.sub) else .ok (mk (kindOfBit (f.sub.getLsbD 0)))

/-- `LINK_CHANGE`: `sub[0]` up, `sub[1]` full duplex (mask 0xFF00FFFC of 30 R140). -/
def linkOp (f : CommandFields) : Except DecodeError Instr :=
  if f.idx ≠ 0 then .error (.nonzeroIdx f.op f.idx)
  else if f.sub &&& 0xFC ≠ 0 then .error (.nonzeroSub f.op f.sub)
  else .ok (.linkChange f.ctx (f.sub.getLsbD 0) (f.sub.getLsbD 1))

/-- The operation of four fields, by the opcode map (30 R140); reserved words are rejected by name (30 R141). -/
def decodeFields (f : CommandFields) : Except DecodeError Instr :=
  if f.op = 0x00 then plainOp f (.nop f.ctx)
  else if f.op = 0x10 then plainOp f (.poolInit f.ctx)
  else if f.op = 0x11 then plainOp f (.poolTeardown f.ctx)
  else if f.op = 0x12 then plainOp f (.acquire f.ctx)
  else if f.op = 0x13 then plainOp f (.release f.ctx)
  else if f.op = 0x20 then indexedOp f (.submit f.ctx f.idx)
  else if f.op = 0x21 then indexedOp f (.submitSeg f.ctx f.idx)
  else if f.op = 0x30 then indexedOp f (.irq f.ctx f.idx)
  else if f.op = 0x31 then indexedOp f (.groupPoll f.ctx f.idx)
  else if f.op = 0x40 then indexedOp f (.maskAll f.ctx f.idx)
  else if f.op = 0x41 then indexedOp f (.unmaskDefault f.ctx f.idx)
  else if f.op = 0x42 then kindedOp f (fun k => .setCoalesce f.ctx k f.idx)
  else if f.op = 0x50 then plainOp f (.start f.ctx)
  else if f.op = 0x51 then plainOp f (.halt f.ctx)
  else if f.op = 0x52 then plainOp f (.changeMtu f.ctx)
  else if f.op = 0x53 then linkOp f
  else if f.op = 0x54 then plainOp f (.resetTask f.ctx)
  else if f.op = 0x55 then indexedOp f (.txTimeout f.ctx f.idx)
  else if f.op = 0x56 then plainOp f (.readStats f.ctx)
  else if f.op = 0xE0 then kindedOp f (fun k => .ringInit f.ctx k f.idx)
  else if f.op = 0xE1 then indexedOp f (.armRx f.ctx f.idx)
  else if f.op = 0xE2 then kindedOp f (fun k => .slotReady f.ctx k f.idx)
  else if f.op = 0xE3 then kindedOp f (fun k => .ringNext f.ctx k f.idx)
  else if f.op = 0xE4 then indexedOp f (.rxPoll f.ctx f.idx)
  else if f.op = 0xE5 then indexedOp f (.txPoll f.ctx f.idx)
  else .error (.unlistedOp f.op)

/-- The operation of a command word (30 R140, R141). -/
def decodeWord (w : Word) : Except DecodeError Instr := decodeFields (commandFields w)

/-- The operation at the head of a list of bytes, a big-endian 32-bit word (30 R127, R130), and the bytes after it. -/
def decode : List Byte → Except DecodeError (Instr × List Byte)
  | b0 :: b1 :: b2 :: b3 :: rest => (decodeWord (b0 ++ b1 ++ b2 ++ b3)).map fun i => (i, rest)
  | _ => .error .truncated

/-- The big-endian bytes of a word, the most significant first (20 R83, 30 R130). -/
def wordBytes (w : Word) : List Byte :=
  [w.extractLsb' 24 8, w.extractLsb' 16 8, w.extractLsb' 8 8, w.extractLsb' 0 8]

/-- The operation the decoder reads from an instruction whose bits are `w`, numbered as the opcode table numbers
them: one 32-bit word, stored as its big-endian bytes; the bits above `nbits` are zero. -/
def decodeTableWord (nbits w : Nat) : Option Instr :=
  match decode (wordBytes (BitVec.ofNat 32 (w % 2 ^ nbits))) with
  | .ok (i, _) => some i
  | .error _ => none

/-- The fields an operation is written with (30 R127, R128, R140). -/
def encodeFields : Instr → CommandFields
  | .nop c => ⟨0x00, c, 0, 0⟩
  | .poolInit c => ⟨0x10, c, 0, 0⟩
  | .poolTeardown c => ⟨0x11, c, 0, 0⟩
  | .acquire c => ⟨0x12, c, 0, 0⟩
  | .release c => ⟨0x13, c, 0, 0⟩
  | .submit c q => ⟨0x20, c, q, 0⟩
  | .submitSeg c q => ⟨0x21, c, q, 0⟩
  | .irq c g => ⟨0x30, c, g, 0⟩
  | .groupPoll c g => ⟨0x31, c, g, 0⟩
  | .maskAll c g => ⟨0x40, c, g, 0⟩
  | .unmaskDefault c g => ⟨0x41, c, g, 0⟩
  | .setCoalesce c k q => ⟨0x42, c, q, bitOfKind k⟩
  | .start c => ⟨0x50, c, 0, 0⟩
  | .halt c => ⟨0x51, c, 0, 0⟩
  | .changeMtu c => ⟨0x52, c, 0, 0⟩
  | .linkChange c up full => ⟨0x53, c, 0, (if full then 2 else 0) ||| (if up then 1 else 0)⟩
  | .resetTask c => ⟨0x54, c, 0, 0⟩
  | .txTimeout c q => ⟨0x55, c, q, 0⟩
  | .readStats c => ⟨0x56, c, 0, 0⟩
  | .ringInit c k q => ⟨0xE0, c, q, bitOfKind k⟩
  | .armRx c q => ⟨0xE1, c, q, 0⟩
  | .slotReady c k q => ⟨0xE2, c, q, bitOfKind k⟩
  | .ringNext c k q => ⟨0xE3, c, q, bitOfKind k⟩
  | .rxPoll c q => ⟨0xE4, c, q, 0⟩
  | .txPoll c q => ⟨0xE5, c, q, 0⟩

/-- The command word of an operation (30 R127). -/
def encodeWord (i : Instr) : Word := commandWord (encodeFields i)

/-- The bytes of an operation's command word, the first at the lowest address (30 R127, R130). -/
def encode (i : Instr) : List Byte := wordBytes (encodeWord i)

/-- `match` and `mask` of an operation's row of 30 R140: a word `w` selects the row when `w & mask = match`. -/
def opcodeRow : Instr → Word × Word
  | .nop _ => (0x00000000, 0xFF00FFFF)
  | .poolInit _ => (0x10000000, 0xFF00FFFF)
  | .poolTeardown _ => (0x11000000, 0xFF00FFFF)
  | .acquire _ => (0x12000000, 0xFF00FFFF)
  | .release _ => (0x13000000, 0xFF00FFFF)
  | .submit _ _ => (0x20000000, 0xFF0000FF)
  | .submitSeg _ _ => (0x21000000, 0xFF0000FF)
  | .irq _ _ => (0x30000000, 0xFF0000FF)
  | .groupPoll _ _ => (0x31000000, 0xFF0000FF)
  | .maskAll _ _ => (0x40000000, 0xFF0000FF)
  | .unmaskDefault _ _ => (0x41000000, 0xFF0000FF)
  | .setCoalesce _ _ _ => (0x42000000, 0xFF0000FE)
  | .start _ => (0x50000000, 0xFF00FFFF)
  | .halt _ => (0x51000000, 0xFF00FFFF)
  | .changeMtu _ => (0x52000000, 0xFF00FFFF)
  | .linkChange _ _ _ => (0x53000000, 0xFF00FFFC)
  | .resetTask _ => (0x54000000, 0xFF00FFFF)
  | .txTimeout _ _ => (0x55000000, 0xFF0000FF)
  | .readStats _ => (0x56000000, 0xFF00FFFF)
  | .ringInit _ _ _ => (0xE0000000, 0xFF0000FE)
  | .armRx _ _ => (0xE1000000, 0xFF0000FF)
  | .slotReady _ _ _ => (0xE2000000, 0xFF0000FE)
  | .ringNext _ _ _ => (0xE3000000, 0xFF0000FE)
  | .rxPoll _ _ => (0xE4000000, 0xFF0000FF)
  | .txPoll _ _ => (0xE5000000, 0xFF0000FF)

/-- One operation for every row of 30 R140, in the table's order. -/
def opcodeRowOwners : List Instr :=
  [.nop 0, .poolInit 0, .poolTeardown 0, .acquire 0, .release 0, .submit 0 0, .submitSeg 0 0, .irq 0 0,
   .groupPoll 0 0, .maskAll 0 0, .unmaskDefault 0 0, .setCoalesce 0 .rx 0, .start 0, .halt 0, .changeMtu 0,
   .linkChange 0 false false, .resetTask 0, .txTimeout 0 0, .readStats 0, .ringInit 0 .rx 0, .armRx 0 0,
   .slotReady 0 .rx 0, .ringNext 0 .rx 0, .rxPoll 0 0, .txPoll 0 0]

/-- The rows of the opcode map (30 R140). -/
def opcodeTable : List (Word × Word) := opcodeRowOwners.map opcodeRow

end Sys2Proof
end

