-- ==== Sys2Proof/Config.lean ====
section
/-! DEFINITION. What an implementation fixes: the parameters of spec 00 R8 that are no registers, and the free
values, constants without a body. Nothing can be proved of a free value, so what is proved holds for every one. -/

namespace Sys2Proof

/-- The implementation parameters of 00 R8 (those that are registers are in State). -/
structure Params where
  /-- `NUM_CPUS`, 1..16 -/
  numCpus : Nat
  /-- `RECYCLE_MAX`, 1..65535 -/
  recycleMax : Nat
  /-- `ALIGN_SLACK`, 0..65535 -/
  alignSlack : Nat
  /-- `RX_HDR_LEN`, 0..255 -/
  rxHdrLen : Nat
  /-- `FRAME_OVERHEAD`, 0..65535 -/
  frameOverhead : Nat
  /-- `RX_BUF_INCREMENT`, a power of two, 1..32768 -/
  rxBufIncrement : Nat
  /-- `MTU_MIN` -/
  mtuMin : Nat
  /-- `MTU_MAX` -/
  mtuMax : Nat
  /-- `MTU_RESET`, `MTU_MIN..MTU_MAX` -/
  mtuReset : Nat
  deriving DecidableEq, Repr

/-- The defaults of 00 R8; for `MTU_MIN` and `MTU_MAX`, which are open, the vectors' 64 and 9600.
DESIGN CHOICE (log 6): these are the values of the one state `State.reset`. -/
def Params.default : Params :=
  { numCpus := 2, recycleMax := 4, alignSlack := 64, rxHdrLen := 8, frameOverhead := 18, rxBufIncrement := 512,
    mtuMin := 64, mtuMax := 9600, mtuReset := 1500 }

/-- The answer of the transform collaborator `rx_meta` (45 R337). -/
structure RxMeta where
  checksumOk : Bool
  vlanTag : Option (BitVec 16)
  timestamp : Option (BitVec 64)
  deriving DecidableEq, Repr, Inhabited

/-- The answer of the stack to `Deliver` (45 R336). -/
inductive DeliverAnswer where
  | accepted
  | dropped
  deriving DecidableEq, Repr, Inhabited

/-- FREE VALUE (log 5): the metadata of a frame for which the schedule holds no answer of `rx_meta` (45 R337: the
result is a free input), by the number of frames delivered before it. -/
opaque Config.unansweredMeta : Nat → RxMeta

/-- FREE VALUE (log 5): the answer of the stack to a `Deliver` for which the schedule holds none (45 R336), by the
number of frames delivered before it. -/
opaque Config.unansweredDeliver : Nat → DeliverAnswer

/-- FREE VALUE (log 10): the group that reports queue `q` of a kind when the groups whose bitmap has it are `gs`
and they are not exactly one (10 R37 defines `grp_of` for a partition only). -/
opaque Config.unstatedGroup : Kind → Nat → List Nat → Option Nat

end Sys2Proof
end

