-- ==== Sys2Proof/Machine/Sizes.lean ====
section
/-! DEFINITION. The sizes derived from the MTU (spec 44 R296) and the legal parameter ranges (00 R8). -/

namespace Sys2Proof.Machine

/-- The least multiple of `inc` not below `x` (44 R296, `roundup`). -/
def roundUp (x inc : Nat) : Nat := (x + inc - 1) / inc * inc

/-- A power of two in 1..32768, a legal ring size (00 R9). -/
def legalRingSize (n : Nat) : Bool := (List.range 16).any fun k => n == 2 ^ k

/-- `maxfrm` for an MTU (44 R296). -/
def maxFrameOf (p : Params) (mtu : Nat) : Nat := mtu + p.frameOverhead

/-- `rx_buffer_size` for an MTU and a header length (44 R296). -/
def bufferSizeOf (p : Params) (mtu hdr : Nat) : Nat := roundUp (maxFrameOf p mtu + hdr) p.rxBufIncrement

/-- The legal ranges of 00 R8. -/
def legalParams (p : Params) : Bool :=
  decide (1 ≤ p.numCpus ∧ p.numCpus ≤ 16 ∧ 1 ≤ p.recycleMax ∧ p.recycleMax ≤ 65535 ∧ p.alignSlack ≤ 65535 ∧
    p.rxHdrLen ≤ 255 ∧ p.frameOverhead ≤ 65535 ∧ p.mtuMin ≤ p.mtuMax ∧ p.mtuMin ≤ p.mtuReset ∧
    p.mtuReset ≤ p.mtuMax ∧ bufferSizeOf p p.mtuMax p.rxHdrLen ≤ 65535) && legalRingSize p.rxBufIncrement

end Sys2Proof.Machine
end

