-- ==== Sys2Proof/Machine/State.lean ====
section
/-! DEFINITION. Every piece of state the spec gives the machine (spec 10, 45 R320, 30 R130 to R136), as plain data,
the model's own fields for the schedule of the agents (log 1, log 4), and the state right after reset (10 R50). -/

namespace Sys2Proof.Machine

/-- Why the machine stops with a fault. -/
inductive Fault where
  /-- A memory access of a context or of the engine reaches past the 64-bit DMA address space (20 R80: no such
  address). Raised by every descriptor and buffer access. Safe (log 14): no ring or buffer the allocator may
  answer with lies there (45 R331, R332). -/
  | outsideAddressSpace
  deriving DecidableEq, Repr

/-- Why the model admits no step. -/
inductive Refusal where
  /-- No meaning for the instruction. Raised by an arm of `exec` only. Safe. -/
  | notModelled (mnemonic : String)
  /-- The allocator answered with memory that is misaligned, overlaps, is no longer in the address space, or with a
  handle that is live (45 R331, R332; 70 R413: "no step"). Raised by `Alloc` and `AllocRing`. Safe. -/
  | allocatorContract
  /-- The transform collaborator answered `segment` with something that is no list of new complete packets in free
  memory (42 R216, 20 R82; 70 R413). Raised by `SUBMIT_SEG`. Safe. -/
  | transformContract
  /-- A packet whose regions do not match its descriptor count, or with a region length outside 1..65535
  (42 R202: "the model refuses the operation (no step)"). Raised by `SUBMIT` and `SUBMIT_SEG`. Safe. -/
  | malformedPacket
  /-- A handle that was never returned by `Alloc` and never described to the model (70 R413: "no step"; 93 U15:
  `refuse`). Raised by `SUBMIT`, `SUBMIT_SEG` and `RELEASE`. Safe (log 11). -/
  | unknownHandle
  /-- The engine takes a step its contract forbids: no such queue, an empty frame, an error flag outside its mask
  (45 R322, R324, R329; 70 R413). Raised by engine moves. Safe. -/
  | engineContract
  /-- A micro-operation performed outside its precondition (40 R164: "a model refuses it"; log 13). Safe. -/
  | outsideContract
  /-- The host broke a duty whose breach would break a free list: two operations of one context's list at a time
  (70 R412; 93 U32: "a model may refuse the overlapping step"; log 25). Raised by `ACQUIRE` and `RELEASE`. Safe. -/
  | hostDuty
  deriving DecidableEq, Repr

/-- Result codes (30 R139). -/
inductive Code where
  | ok
  | busy
  | errOutOfMemory
  | errIrq
  | errInvalidMtu
  | errAllocFail
  | errState
  | errReservedOp
  | errBadArg
  | errNotPending
  | errSegFailed
  | errUnsupported
  | errBadConfig
  | errFatal
  deriving DecidableEq, Repr

/-- Fault codes, the values of `LASTERR` (60 R354). -/
inductive FaultCode where
  | none
  | txNoHandle
  | rxNoHandle
  | txTimeout
  | stopTimeout
  | restartFailed
  deriving DecidableEq, Repr

/-- A lock: free, or held by a context (10 R47). -/
inductive Lock where
  | free
  | held (c : Nat)
  deriving DecidableEq, Repr

/-- Which lock (10 R47). -/
inductive LockName where
  | pool
  | rx (q : Nat)
  | tx (q : Nat)
  deriving DecidableEq, Repr

/-- Ghost ownership of a handle (10 R32). `submitted c` is the `Held(c)` of a packet whose `SUBMIT` or `SUBMIT_SEG` is
in progress on context `c`, apart from `held` because the tests of a second submit treat it as the stack's (20 R109,
42 R203; log 43). -/
inductive Owner where
  | slot (kind : Kind) (q i : Nat)
  | localList (c : Nat)
  | globalList
  | stack
  | freed
  | held (c : Nat)
  | submitted (c : Nat)
  deriving DecidableEq, Repr

/-- Ghost mapping of a handle (10 R33). -/
inductive Mapping where
  | none
  | toDevice
  | fromDevice
  deriving DecidableEq, Repr

/-- One region of a packet to transmit (10 R30): `(addr: u64, len: 1..65535)`. -/
structure Region where
  addr : DWord
  len : Nat
  deriving DecidableEq, Repr

/-- What `Buf[h]` says of a buffer besides whether it is live (10 R30). -/
structure BufInfo where
  capacity : Nat
  phys : DWord
  linear : Bool
  refs : Nat
  bufs : List Region
  nfrags : Nat
  needsTs : Bool
  needsHdr : Bool
  deriving DecidableEq, Repr

/-- An entry of the buffer table with its ghost owner and mapping (10 R30, R32, R33). -/
structure Buffer where
  live : Bool
  info : BufInfo
  owner : Owner
  mapped : Mapping
  deriving DecidableEq, Repr

/-- An RX in-flight entry (10 R25). -/
inductive RxEntry where
  | empty
  | buf (h : Handle)
  deriving DecidableEq, Repr

/-- A TX in-flight entry (10 R25). -/
inductive TxEntry where
  | empty
  | head (h : Handle) (nbd : Nat)
  | cont (first : Nat)
  deriving DecidableEq, Repr

/-- A coalescing pair `(max_frames, max_delay)` (10 R23; 30 R135, `RXIC`). -/
structure Coalesce where
  maxFrames : BitVec 8
  maxDelay : BitVec 16
  deriving DecidableEq, Repr

/-- The transmit phase of a queue (10 R41). -/
inductive TxPhase where
  | readyForWork
  | spaceCheck
  | descriptorWrite
  | doorbell
  deriving DecidableEq, Repr

/-- RX queue registers (10 R23), its configuration register (30 R133), coalescer state (10 R38), lock (10 R47). -/
structure RxQueue where
  alloc : Bool
  base : DWord
  n : Nat
  cur : Nat
  inflight : List RxEntry
  ic : Coalesce
  size : BitVec 16
  pend : Nat
  elapsed : Nat
  lock : Lock
  deriving DecidableEq, Repr

/-- TX queue registers (10 R24), its configuration register (30 R133), coalescer state (10 R38), lock (10 R47). -/
structure TxQueue where
  alloc : Bool
  base : DWord
  n : Nat
  fill : Nat
  dirty : Nat
  free : Nat
  stopped : Bool
  inflight : List TxEntry
  ic : Coalesce
  phase : TxPhase
  size : BitVec 16
  pend : Nat
  elapsed : Nat
  lock : Lock
  deriving DecidableEq, Repr

/-- Group registers and poll gate (10 R36, R42; 30 R133). Event bits: bit 0 `RXF`, bit 1 `TXF` (30 R134). -/
structure Group where
  rxq : BitVec 8
  txq : BitVec 8
  ievent : BitVec 2
  imask : BitVec 2
  irqLine : BitVec 32
  irqRegistered : Bool
  pollScheduled : Bool
  pollRunning : Bool
  deriving DecidableEq, Repr

/-- Device state (10 R39). -/
inductive DevState where
  | down
  | up
  | stopping
  deriving DecidableEq, Repr

/-- Link state (10 R39). -/
inductive Link where
  | down
  | up (speed : BitVec 16) (full : Bool)
  deriving DecidableEq, Repr

/-- Device registers (10 R39, R44, R53, R54; 30 R132, R133). -/
structure Device where
  devState : DevState
  link : Link
  resetPending : Bool
  ctlBusy : Bool
  haltTimerExpired : Bool
  /-- the model's own: some context is inside `halt_wait` (45 R340; log 16) -/
  haltWaiting : Bool
  lastErr : FaultCode
  /-- bit 0 `GSTOP`, bit 1 `DMA_EN` -/
  dmactrl : BitVec 2
  /-- bit 0 `RX_EN`, bit 1 `TX_EN` -/
  macctrl : BitVec 2
  /-- bit 0 `GSC` -/
  devevent : BitVec 1
  /-- bit 0 `RX_IDLE`, bit 1 `TX_IDLE` -/
  idlestat : BitVec 2
  linkcfg : BitVec 32
  mtu : Nat
  maxfrm : Nat
  rxBufSize : Nat
  /-- bit 0 `BUF_STASH`, 1 `STOP_ACK_UNRELIABLE`, 2 `TX_ZERO_COPY`, 3 `RX_HDR_EN` -/
  caps : BitVec 4
  /-- bits 3:0 `NUM_RXQ`, 7:4 `NUM_TXQ`, 11:8 `NUM_GROUPS` -/
  nqueues : BitVec 12
  /-- the engine's (10 R48) -/
  stopAcked : Bool
  deriving DecidableEq, Repr

/-- The recycle pool but for the local lists, which are with their contexts (10 R34). -/
structure Pool where
  init : Bool
  global : List Handle
  lock : Lock
  deriving DecidableEq, Repr

/-- What one event of an operation answers to the operation: the value read, or nothing. -/
inductive Resp where
  | unit
  | flag (b : Bool)
  | nat (n : Nat)
  | word (w : Word)
  | dword (w : DWord)
  | handle (h : Option Handle)
  | handles (hs : List Handle)
  | regions (rs : List Region)
  | rx (e : RxEntry)
  | tx (e : TxEntry)
  | rxs (es : List RxEntry)
  | txs (es : List TxEntry)
  | code (c : Code)
  | queues (qs : List (Kind × Nat))
  | segments (hs : List Handle) (complete : Bool)
  deriving DecidableEq, Repr

/-- An operation in progress on a context: the operation, and the answers its events have got so far, in order
(log 1). What it does next follows from the two. -/
structure InProgress where
  instr : Instr
  log : List Resp
  deriving DecidableEq, Repr

/-- A command bank and its context (10 R45; 30 R131), with the context's free list (10 R34). -/
structure Bank where
  cmd : BitVec 32
  arg0 : DWord
  arg1 : DWord
  arg2 : DWord
  status : Code
  rval0 : DWord
  rval1 : DWord
  busy : Bool
  op : Option InProgress
  localList : List Handle
  deriving DecidableEq, Repr

/-- The engine's registers for an RX ring (10 R48). -/
structure EngineRx where
  base : DWord
  n : Nat
  cur : Nat
  deriving DecidableEq, Repr

/-- The engine's registers for a TX ring (10 R48). -/
structure EngineTx where
  base : DWord
  n : Nat
  cur : Nat
  idle : Bool
  deriving DecidableEq, Repr

/-- The answer of `segment` (42 R216): the segments built, each a new handle with its packet, and whether it
finished. -/
structure SegmentAnswer where
  segs : List (Handle × BufInfo)
  complete : Bool
  deriving DecidableEq, Repr

/-- A packet handed upward (43 R237): the handle, the data's offset and length, the metadata, the answer. -/
structure Delivery where
  handle : Handle
  offset : Nat
  length : Nat
  info : RxMeta
  answer : DeliverAnswer
  deriving DecidableEq, Repr

/-- The model's own record of the agents around the block (log 4): the answers they will give, in order, and what
they were handed. -/
structure Env where
  ringAnswers : List (Option DWord)
  bufAnswers : List (Option (Handle × DWord))
  irqAnswers : List Bool
  metaAnswers : List RxMeta
  deliverAnswers : List DeliverAnswer
  segAnswers : List SegmentAnswer
  delivered : List Delivery
  hostData : Word
  deriving DecidableEq, Repr

/-- A move of an agent (45 R343), an entry of the agenda (log 1). -/
inductive Move where
  /-- the host writes `value` at a register offset with an access of `size` bytes (20 R86, 30 R130); a command word
  starts its operation, which runs to its end -/
  | hostWrite (offset : BitVec 12) (size : Nat) (value : Word)
  /-- the host reads a register -/
  | hostRead (offset : BitVec 12) (size : Nat)
  /-- the host writes the command word of bank `c`; the operation stays in progress -/
  | launch (c : Nat) (word : Word)
  /-- context `c` performs the next event of its operation -/
  | advance (c : Nat)
  /-- `DMA_RX_FILL` (45 R322): the frame's bytes (header first) and its error flags -/
  | rxFill (q : Nat) (errs : Half) (bytes : List Byte)
  /-- `DMA_TX_CONSUME` (45 R324) -/
  | txConsume (q : Nat) (errs : Half)
  /-- `DMA_POLL_TICK` (45 R325) -/
  | pollTick (q : Nat)
  /-- `DMA_STOP_ACK` (45 R326); `gsc` says whether it sets `GSC` where it may leave it unset -/
  | stopAck (gsc : Bool)
  /-- `DMA_IDLE_UPDATE` (45 R327) -/
  | idleUpdate (v : BitVec 2)
  /-- `COALESCE_TICK` (60 R367) -/
  | coalesceTick
  /-- `HALT_TIMEOUT_EXPIRE` (45 R340) -/
  | haltTimeout
  /-- the stack makes or changes a buffer it owns (42 R201; log 18) -/
  | describe (h : Handle) (info : BufInfo)
  /-- the stack gives up a reference of a buffer it owns (45 R336; log 18) -/
  | stackFree (h : Handle)
  /-- the stack writes bytes of a buffer it owns (20 R112; log 18) -/
  | stackWrite (h : Handle) (offset : Nat) (bytes : List Byte)
  deriving DecidableEq, Repr

/-- The state of the machine. -/
structure State where
  params : Params
  /-- DMA memory, in canonical form (`Memory.wf`) -/
  mem : List Host.Cell
  /-- the buffer table by handle, handles strictly rising -/
  bufs : List (Handle × Buffer)
  /-- the allocator's live rings: base and number of bytes (45 R331) -/
  liveRings : List (Nat × Nat)
  rxq : Vector RxQueue 8
  txq : Vector TxQueue 8
  groups : Vector Group 8
  banks : Vector Bank 16
  dev : Device
  pool : Pool
  engRx : Vector EngineRx 8
  engTx : Vector EngineTx 8
  /-- the live counters `STAT[0..7]` (10 R46) -/
  stats : Vector Word 8
  /-- the snapshot `STATSNAP[0..7]` (10 R46) -/
  snap : Vector Word 8
  env : Env
  /-- the moves to come (log 1) -/
  agenda : List Move
  deriving DecidableEq, Repr

/-- An RX queue after reset (10 R50). -/
def RxQueue.reset : RxQueue :=
  { alloc := false, base := 0, n := 0, cur := 0, inflight := [], ic := ⟨1, 0⟩, size := 0, pend := 0, elapsed := 0,
    lock := .free }

/-- A TX queue after reset (10 R50). -/
def TxQueue.reset : TxQueue :=
  { alloc := false, base := 0, n := 0, fill := 0, dirty := 0, free := 0, stopped := false, inflight := [],
    ic := ⟨1, 0⟩, phase := .readyForWork, size := 0, pend := 0, elapsed := 0, lock := .free }

/-- A group after reset (10 R50). -/
def Group.reset : Group :=
  { rxq := 0, txq := 0, ievent := 0, imask := 0, irqLine := 0, irqRegistered := false, pollScheduled := false,
    pollRunning := false }

/-- A bank after reset (10 R50). -/
def Bank.reset : Bank :=
  { cmd := 0, arg0 := 0, arg1 := 0, arg2 := 0, status := .ok, rval0 := 0, rval1 := 0, busy := false, op := none,
    localList := [] }

/-- The device registers after reset (10 R50), with the sizes 44 R296 derives from `MTU_RESET`. -/
def Device.reset (p : Params) : Device :=
  { devState := .down, link := .down, resetPending := false, ctlBusy := false, haltTimerExpired := false,
    haltWaiting := false, lastErr := .none, dmactrl := 0, macctrl := 0, devevent := 0, idlestat := 3, linkcfg := 0,
    mtu := p.mtuReset, maxfrm := maxFrameOf p p.mtuReset, rxBufSize := bufferSizeOf p p.mtuReset 0, caps := 0,
    nqueues := 0x111, stopAcked := false }

/-- The engine's RX registers after reset: unspecified (70 R402). DESIGN CHOICE 0 (log 8). -/
def EngineRx.reset : EngineRx := { base := 0, n := 0, cur := 0 }

/-- The engine's TX registers after reset: idle (10 R50), else unspecified (70 R402). DESIGN CHOICE 0 (log 8). -/
def EngineTx.reset : EngineTx := { base := 0, n := 0, cur := 0, idle := true }

/-- An environment that is asked nothing and answers nothing yet (log 4). -/
def Env.reset : Env :=
  { ringAnswers := [], bufAnswers := [], irqAnswers := [], metaAnswers := [], deliverAnswers := [],
    segAnswers := [], delivered := [], hostData := 0 }

/-- The state after reset for given parameters (10 R50, 70 R401). -/
def State.resetWith (p : Params) : State :=
  { params := p, mem := [], bufs := [], liveRings := [], rxq := Vector.replicate 8 RxQueue.reset,
    txq := Vector.replicate 8 TxQueue.reset, groups := Vector.replicate 8 Group.reset,
    banks := Vector.replicate 16 Bank.reset, dev := Device.reset p,
    pool := { init := false, global := [], lock := .free }, engRx := Vector.replicate 8 EngineRx.reset,
    engTx := Vector.replicate 8 EngineTx.reset, stats := Vector.replicate 8 0, snap := Vector.replicate 8 0,
    env := Env.reset, agenda := [] }

/-- The machine right after reset (10 R50, 70 R401), with the default parameters (log 6). -/
def State.reset : State := State.resetWith Params.default

end Sys2Proof.Machine
end

