-- ==== Sys2Proof/Machine/Ops.lean ====
section
/-! DEFINITION. The named operations over registers, memory, buffers, locks and the agents' answers, and the form
every operation of the controller is written in: a program of events (spec 00 R11, 20 R94), each of which reads or
writes the state in one atomic step and may wait. Recording a fault (60 R355, R356) and ending an operation (30 R129)
stand here, once. -/

namespace Sys2Proof.Machine

open Host (Cell)

/-! ### DMA memory (20 R80, R83, R84, R90) -/

/-- What a byte of memory that nothing has written reads as. DESIGN CHOICE (log 7): 70 R402 lets a model give any
value. -/
def unwrittenByte : Byte := 0

/-- The byte at an address. -/
def readByte : List Cell → Nat → Byte
  | [], _ => unwrittenByte
  | (b, v) :: m, a => if a = b then v else readByte m a

/-- The memory with one byte written, in canonical form again. -/
def writeByte : List Cell → Nat → Byte → List Cell
  | [], a, v => if v = unwrittenByte then [] else [(a, v)]
  | (b, x) :: m, a, v =>
    if a < b then (if v = unwrittenByte then (b, x) :: m else (a, v) :: (b, x) :: m)
    else if a = b then (if v = unwrittenByte then m else (a, v) :: m)
    else (b, x) :: writeByte m a v

/-- The memory with consecutive bytes written from an address up. -/
def writeBytes (m : List Cell) (a : Nat) : List Byte → List Cell
  | [] => m
  | b :: bs => writeBytes (writeByte m a b) (a + 1) bs

/-- The big-endian bytes of a 64-bit quantity (20 R83). -/
def dwordBytes (d : DWord) : List Byte := wordBytes (d.extractLsb' 32 32) ++ wordBytes (d.extractLsb' 0 32)

/-- A 4-byte read, big-endian (20 R83). -/
def readWord (m : List Cell) (a : Nat) : Word :=
  readByte m a ++ readByte m (a + 1) ++ readByte m (a + 2) ++ readByte m (a + 3)

/-- An 8-byte read, big-endian (20 R83). -/
def readDWord (m : List Cell) (a : Nat) : DWord := readWord m a ++ readWord m (a + 4)

/-- A 4-byte write, big-endian (20 R83). -/
def writeWord (m : List Cell) (a : Nat) (w : Word) : List Cell := writeBytes m a (wordBytes w)

/-- An 8-byte write, big-endian (20 R83). -/
def writeDWord (m : List Cell) (a : Nat) (d : DWord) : List Cell := writeBytes m a (dwordBytes d)

/-- The canonical form: addresses strictly rising and inside the address space, no entry equal to what an unlisted
address reads as. -/
abbrev Memory.wf (m : List Cell) : Prop :=
  (m.map Prod.fst).Pairwise (· < ·) ∧ ∀ c ∈ m, c.2 ≠ unwrittenByte ∧ c.1 < addressSpace

/-! ### Reading and writing the banks of registers -/

/-- RX queue `q`. -/
def State.rx (s : State) (q : Nat) : RxQueue := bankGet s.rxq RxQueue.reset q
/-- TX queue `q`. -/
def State.tx (s : State) (q : Nat) : TxQueue := bankGet s.txq TxQueue.reset q
/-- Group `g`. -/
def State.grp (s : State) (g : Nat) : Group := bankGet s.groups Group.reset g
/-- Command bank `c`. -/
def State.bank (s : State) (c : Nat) : Bank := bankGet s.banks Bank.reset c
/-- The engine's registers of RX ring `q`. -/
def State.erx (s : State) (q : Nat) : EngineRx := bankGet s.engRx EngineRx.reset q
/-- The engine's registers of TX ring `q`. -/
def State.etx (s : State) (q : Nat) : EngineTx := bankGet s.engTx EngineTx.reset q

/-- Change RX queue `q`. -/
def State.modRx (s : State) (q : Nat) (f : RxQueue → RxQueue) : State :=
  { s with rxq := bankSet s.rxq q (f (s.rx q)) }
/-- Change TX queue `q`. -/
def State.modTx (s : State) (q : Nat) (f : TxQueue → TxQueue) : State :=
  { s with txq := bankSet s.txq q (f (s.tx q)) }
/-- Change group `g`. -/
def State.modGrp (s : State) (g : Nat) (f : Group → Group) : State :=
  { s with groups := bankSet s.groups g (f (s.grp g)) }
/-- Change command bank `c`. -/
def State.modBank (s : State) (c : Nat) (f : Bank → Bank) : State :=
  { s with banks := bankSet s.banks c (f (s.bank c)) }
/-- Change the engine's registers of RX ring `q`. -/
def State.modErx (s : State) (q : Nat) (f : EngineRx → EngineRx) : State :=
  { s with engRx := bankSet s.engRx q (f (s.erx q)) }
/-- Change the engine's registers of TX ring `q`. -/
def State.modEtx (s : State) (q : Nat) (f : EngineTx → EngineTx) : State :=
  { s with engTx := bankSet s.engTx q (f (s.etx q)) }
/-- Change the device registers. -/
def State.modDev (s : State) (f : Device → Device) : State := { s with dev := f s.dev }
/-- Change the pool. -/
def State.modPool (s : State) (f : Pool → Pool) : State := { s with pool := f s.pool }
/-- Change the record of the environment. -/
def State.modEnv (s : State) (f : Env → Env) : State := { s with env := f s.env }
/-- Replace DMA memory. -/
def State.setMem (s : State) (m : List Cell) : State := { s with mem := m }
/-- Replace the buffer table. -/
def State.setBufs (s : State) (b : List (Handle × Buffer)) : State := { s with bufs := b }
/-- Replace the allocator's record of live rings. -/
def State.setRings (s : State) (r : List (Nat × Nat)) : State := { s with liveRings := r }
/-- Replace the moves to come. -/
def State.setAgenda (s : State) (a : List Move) : State := { s with agenda := a }
/-- Add 1 to counter `k`, modulo 2^32 (10 R46, 44 R312). -/
def State.count (s : State) (k : Nat) : State := { s with stats := bankSet s.stats k (bankGet s.stats 0 k + 1) }
/-- Copy all eight counters into the snapshot (44 R311). -/
def State.snapshot (s : State) : State := { s with snap := s.stats }

/-! ### Counts and configuration (30 R133) -/

/-- The `NUM_RXQ` field of `NQUEUES`. -/
def State.rxCountField (s : State) : Nat := (s.dev.nqueues.extractLsb' 0 4).toNat
/-- The `NUM_TXQ` field of `NQUEUES`. -/
def State.txCountField (s : State) : Nat := (s.dev.nqueues.extractLsb' 4 4).toNat
/-- The `NUM_GROUPS` field of `NQUEUES`. -/
def State.groupCountField (s : State) : Nat := (s.dev.nqueues.extractLsb' 8 4).toNat
/-- The RX queues that exist: `NUM_RXQ`, and no more than the 8 register blocks. DESIGN CHOICE (log 9). -/
def State.numRxq (s : State) : Nat := min 8 s.rxCountField
/-- The TX queues that exist (log 9). -/
def State.numTxq (s : State) : Nat := min 8 s.txCountField
/-- The groups that exist (log 9). -/
def State.numGroups (s : State) : Nat := min 8 s.groupCountField
/-- `NUM_RXQ` or `NUM_TXQ` by kind. -/
def State.numQueues (s : State) : Kind → Nat
  | .rx => s.numRxq
  | .tx => s.numTxq

/-- `CAPS.STOP_ACK_UNRELIABLE` (30 R133). -/
def State.stopAckUnreliable (s : State) : Bool := s.dev.caps.getLsbD 1
/-- `CAPS.TX_ZERO_COPY` (30 R133). -/
def State.zeroCopy (s : State) : Bool := s.dev.caps.getLsbD 2
/-- The header length in force: `RX_HDR_LEN` where `CAPS.RX_HDR_EN` is 1, else 0 (43 R232). -/
def State.hdrLen (s : State) : Nat := if s.dev.caps.getLsbD 3 then s.params.rxHdrLen else 0
/-- The capacity of a receive buffer (10 R30). -/
def State.bufferCapacity (s : State) : Nat := s.dev.rxBufSize + s.params.alignSlack

/-- The indexes of the bits set in a queue bitmap, ascending (43 R256). -/
def bitIndexes (b : BitVec 8) : List Nat := (List.range 8).filter fun q => b.getLsbD q

/-! ### Rings and descriptors (40 R160, 30 R121) -/

/-- `K_base[q]` (10 R22). -/
def State.ringBase (s : State) : Kind → Nat → DWord
  | .rx, q => (s.rx q).base
  | .tx, q => (s.tx q).base
/-- `K_n[q]` (10 R22). -/
def State.ringSize (s : State) : Kind → Nat → Nat
  | .rx, q => (s.rx q).n
  | .tx, q => (s.tx q).n
/-- `K_alloc[q]` (10 R22). -/
def State.ringAlloc (s : State) : Kind → Nat → Bool
  | .rx, q => (s.rx q).alloc
  | .tx, q => (s.tx q).alloc
/-- `desc(K, q, i)`, the byte address of descriptor `i` (30 R121). -/
def State.desc (s : State) (k : Kind) (q i : Nat) : Nat := (s.ringBase k q).toNat + 16 * i

/-! ### Buffers (10 R30 to R33) -/

/-- The entry of a handle, if the table has one. -/
def findBuf : List (Handle × Buffer) → Handle → Option Buffer
  | [], _ => none
  | (k, b) :: t, h => if h = k then some b else findBuf t h

/-- The table with an entry set, handles strictly rising. -/
def insertBuf : List (Handle × Buffer) → Handle → Buffer → List (Handle × Buffer)
  | [], h, b => [(h, b)]
  | (k, x) :: t, h, b =>
    if h.toNat < k.toNat then (h, b) :: (k, x) :: t
    else if h = k then (h, b) :: t
    else (k, x) :: insertBuf t h b

/-- The table with the entry of a handle changed, if it has one. -/
def changeBuf : List (Handle × Buffer) → Handle → (Buffer → Buffer) → List (Handle × Buffer)
  | [], _, _ => []
  | (k, x) :: t, h, f => if h = k then (k, f x) :: t else (k, x) :: changeBuf t h f

/-- `Buf[h]` with its ghost state, if `h` was ever described to the model. -/
def State.buf (s : State) (h : Handle) : Option Buffer := findBuf s.bufs h
/-- `Buf[h].live`; a handle without an entry is not live (10 R50). -/
def State.live (s : State) (h : Handle) : Bool := ((s.buf h).map (·.live)).getD false
/-- `owner[h]`, where `h` has an entry. -/
def State.owner (s : State) (h : Handle) : Option Owner := (s.buf h).map (·.owner)
/-- `mapped[h]`; `None` where `h` has no entry. -/
def State.mapping (s : State) (h : Handle) : Mapping := ((s.buf h).map (·.mapped)).getD .none
/-- `Buf[h].phys`. -/
def State.phys (s : State) (h : Handle) : DWord := ((s.buf h).map (·.info.phys)).getD 0
/-- `Buf[h].bufs`. -/
def State.regions (s : State) (h : Handle) : List Region := ((s.buf h).map (·.info.bufs)).getD []

/-- Change the entry of a handle. -/
def State.modBuf (s : State) (h : Handle) (f : Buffer → Buffer) : State := s.setBufs (changeBuf s.bufs h f)
/-- `owner[h] <- o`. -/
def State.setOwner (s : State) (h : Handle) (o : Owner) : State := s.modBuf h fun b => { b with owner := o }
/-- The packet of a submit in progress (10 R32; log 43). -/
def inSubmit : Owner → Bool
  | .submitted _ => true
  | .slot _ _ _ | .localList _ | .globalList | .stack | .freed | .held _ => false

/-- `mapped[h] <- m` (20 R112). -/
def State.setMapped (s : State) (h : Handle) (m : Mapping) : State := s.modBuf h fun b => { b with mapped := m }
/-- `owner[h] <- o` for every handle of a list. -/
def State.setOwners (s : State) (hs : List Handle) (o : Owner) : State := hs.foldl (fun s h => s.setOwner h o) s

/-- `recycleable(h)` (10 R31). -/
def State.recycleable (s : State) (h : Handle) : Bool :=
  match s.buf h with
  | some b => b.info.linear && decide (b.info.capacity = s.bufferCapacity) && decide (b.info.refs = 1)
  | none => false

/-- The descriptor count of a packet (42 R202). -/
def requiredOf (b : BufInfo) : Nat := b.nfrags + (if b.needsTs then 1 else 0) + (if b.needsHdr then 1 else 0)

/-- `required(h)` (42 R202). -/
def State.required (s : State) (h : Handle) : Nat := ((s.buf h).map fun b => requiredOf b.info).getD 0

/-- A complete packet: at least one fragment, one region per descriptor, each of length 1..65535 (42 R201, R202). -/
def wellFormedPacket (b : BufInfo) : Bool :=
  decide (1 ≤ b.nfrags) && decide (b.bufs.length = requiredOf b) &&
    b.bufs.all fun r => decide (1 ≤ r.len ∧ r.len ≤ 65535)

/-- The ranges of a buffer's fields: `capacity` is a u32, `refs` at least 1 (10 R30). -/
def BufInfo.legal (b : BufInfo) : Bool := decide (b.capacity < 2 ^ 32 ∧ 1 ≤ b.refs)

/-- `Free(h)` (45 R333): one reference given up, not live with none left, and `Freed` in the controller's books. -/
def State.freeBuf (s : State) (h : Handle) : State :=
  s.modBuf h fun b =>
    { b with live := b.live && decide (b.info.refs - 1 ≠ 0), info := { b.info with refs := b.info.refs - 1 },
             owner := .freed }

/-! ### The allocator (45 R330 to R334) -/

/-- Of two byte ranges one ends before the other begins. -/
def disjoint (a n b m : Nat) : Bool := decide (a + n ≤ b ∨ b + m ≤ a)

/-- The `n` bytes from `a` lie in the address space and overlap no live ring and no live buffer (45 R331, R332). -/
def State.freshRange (s : State) (a n : Nat) : Bool :=
  decide (a + n ≤ addressSpace) &&
    s.liveRings.all (fun r => disjoint a n r.1 r.2) &&
    s.bufs.all fun e => !e.2.live || disjoint a n e.2.info.phys.toNat e.2.info.capacity

/-- The buffer `Alloc(size)` answers with (45 R332). It is no packet yet: the packet fields, which R332 does not list,
are empty, 0 and false. DESIGN CHOICE (log 41). -/
def freshBuffer (c size : Nat) (phys : DWord) : Buffer :=
  { live := true,
    info := { capacity := size, phys := phys, linear := true, refs := 1, bufs := [], nfrags := 0, needsTs := false,
              needsHdr := false },
    owner := .held c, mapped := .none }

/-! ### Locks (10 R47, 20 R104) -/

/-- The state of a lock. -/
def State.lockOf (s : State) : LockName → Lock
  | .pool => s.pool.lock
  | .rx q => (s.rx q).lock
  | .tx q => (s.tx q).lock

/-- Set a lock. -/
def State.setLock (s : State) (n : LockName) (l : Lock) : State :=
  match n with
  | .pool => s.modPool fun p => { p with lock := l }
  | .rx q => s.modRx q fun r => { r with lock := l }
  | .tx q => s.modTx q fun t => { t with lock := l }

/-- The lock of a queue by kind: `rx_lock[q]` or `tx_lock[q]` (44 R276). -/
def queueLock : Kind → Nat → LockName
  | .rx, q => .rx q
  | .tx, q => .tx q

/-! ### Groups, interrupt line, coalescer (60 R365 to R371) -/

/-- `RXF` (30 R134). -/
def rxf : BitVec 2 := 1
/-- `TXF` (30 R134). -/
def txf : BitVec 2 := 2
/-- `RTX` = `RXF + TXF`, the receive/transmit bits (30 R134). -/
def rtx : BitVec 2 := 3
/-- `IMASK_DEFAULT` (30 R134). -/
def imaskDefault : BitVec 2 := 3

/-- The level of group `g`'s interrupt line (60 R370). -/
def State.line (s : State) (g : Nat) : Bool :=
  (s.grp g).irqRegistered && decide ((s.grp g).ievent &&& (s.grp g).imask ≠ 0)

/-- The queue bitmap of a group by kind (10 R36). -/
def groupBitmap (g : Group) : Kind → BitVec 8
  | .rx => g.rxq
  | .tx => g.txq

/-- The groups whose bitmap has queue `q`. -/
def State.groupsOf (s : State) (k : Kind) (q : Nat) : List Nat :=
  (List.range s.numGroups).filter fun g => (groupBitmap (s.grp g) k).getLsbD q

/-- `grp_of(K, q)` (10 R37): the one group that has the queue; where the bitmaps are no partition a free value
(log 10). -/
def State.grpOf (s : State) (k : Kind) (q : Nat) : Option Nat :=
  match s.groupsOf k q with
  | [g] => some g
  | gs => Config.unstatedGroup k q gs

/-- The event bit of a kind (60 R368). -/
def eventBit : Kind → BitVec 2
  | .rx => rxf
  | .tx => txf

/-- Set event bits of a group (60 R368, "fire"). -/
def State.raiseEvent (s : State) (g : Option Nat) (b : BitVec 2) : State :=
  match g with
  | some g => s.modGrp g fun x => { x with ievent := x.ievent ||| b }
  | none => s

/-- `K_pend[q]` (10 R38). -/
def State.pend (s : State) : Kind → Nat → Nat
  | .rx, q => (s.rx q).pend
  | .tx, q => (s.tx q).pend
/-- `K_elapsed[q]` (10 R38). -/
def State.elapsed (s : State) : Kind → Nat → Nat
  | .rx, q => (s.rx q).elapsed
  | .tx, q => (s.tx q).elapsed
/-- `K_ic[q]` (10 R23, R24). -/
def State.ic (s : State) : Kind → Nat → Coalesce
  | .rx, q => (s.rx q).ic
  | .tx, q => (s.tx q).ic
/-- Write the coalescer's two counters of a queue (10 R38), in one event (log 40). -/
def State.setCoalescer (s : State) (k : Kind) (q pend elapsed : Nat) : State :=
  match k with
  | .rx => s.modRx q fun r => { r with pend := pend, elapsed := elapsed }
  | .tx => s.modTx q fun t => { t with pend := pend, elapsed := elapsed }
/-- Write the coalescing pair of a queue (44 R276). -/
def State.setIc (s : State) (k : Kind) (q : Nat) (v : Coalesce) : State :=
  match k with
  | .rx => s.modRx q fun r => { r with ic := v }
  | .tx => s.modTx q fun t => { t with ic := v }

/-- The condition of a fire (60 R368). -/
def State.coalesceDue (s : State) (k : Kind) (q : Nat) : Bool :=
  decide (1 ≤ s.pend k q) &&
    (decide ((s.ic k q).maxFrames.toNat ≤ s.pend k q) || decide ((s.ic k q).maxDelay.toNat ≤ s.elapsed k q))

/-- `coalesce_eval(K, q)` (60 R368). -/
def State.coalesceEval (s : State) (k : Kind) (q : Nat) : State :=
  if s.coalesceDue k q then (s.raiseEvent (s.grpOf k q) (eventBit k)).setCoalescer k q 0 0 else s

/-- `COALESCE_PULSE(K, q)` (60 R366). -/
def State.coalescePulse (s : State) (k : Kind) (q : Nat) : State :=
  let e := if s.pend k q = 0 then 0 else s.elapsed k q
  (s.setCoalescer k q (min 255 (s.pend k q + 1)) e).coalesceEval k q

/-! ### Writes of control registers with an effect on the engine (45 R325 to R327) -/

/-- A write of `DMACTRL`: `stop_acked` returns to false when `GSTOP` is 0 (45 R326), `IDLESTAT` to both idle bits
when the register becomes 0 (45 R327). -/
def State.writeDmactrl (s : State) (v : BitVec 2) : State :=
  s.modDev fun d =>
    { d with dmactrl := v, stopAcked := if v.getLsbD 0 then d.stopAcked else false,
             idlestat := if v = 0 then 3 else d.idlestat }

/-- A write of `TXPOLL`: a 1 in bit `q` wakes TX ring `q` (45 R325); nothing is stored (30 R132). -/
def State.doorbell (s : State) (bits : BitVec 8) : State :=
  (bitIndexes bits).foldl (fun s q => s.modEtx q fun e => { e with idle := false }) s

/-! ### Faults and the end of an operation (60 R355, R356; 30 R129) -/

/-- Whether a fault asks for a reset cycle (60 R356). -/
def faultAsksReset : FaultCode → Bool
  | .none => false
  | .txNoHandle => true
  | .rxNoHandle => true
  | .txTimeout => true
  | .stopTimeout => false
  | .restartFailed => false

/-- Taking a fault, the one place: `LASTERR <- code`, overwriting the previous one, and `reset_pending <- true` for
the faults 60 R356 says, in one event (log 40); nothing else is recorded (60 R355). -/
def State.recordFault (s : State) (f : FaultCode) : State :=
  s.modDev fun d => { d with lastErr := f, resetPending := d.resetPending || faultAsksReset f }

/-- What an operation ends with: its code and the results it lists (30 R128, R129). -/
structure Result where
  code : Code
  rval0 : Option DWord
  rval1 : Option DWord
  deriving DecidableEq, Repr

/-- A result without values. -/
def Result.only (c : Code) : Result := { code := c, rval0 := none, rval1 := none }

/-- The end of an operation: `STATUS`, the listed results, `busy <- false` (30 R129), in one event (log 40). -/
def State.finish (s : State) (c : Nat) (r : Result) : State :=
  s.modBank c fun b =>
    { b with status := r.code, rval0 := r.rval0.getD b.rval0, rval1 := r.rval1.getD b.rval1, busy := false,
             op := none }

/-! ### Programs of events (00 R11, 20 R94) -/

/-- What one event does in a state: it happens, with an answer to the operation; or it has to wait; or the machine
stops. -/
inductive Event where
  | ok (s : State) (r : Resp)
  | wait
  | fault (f : Fault)
  | refuse (r : Refusal)

/-- An operation: it has ended with a result, or its next event and what follows each answer. -/
inductive Prog where
  | ret (r : Result)
  | ev (f : State → Event) (k : Resp → Prog)

/-- The flag of an answer. -/
def Resp.getFlag : Resp → Bool
  | .flag b => b
  | _ => false
/-- The number of an answer. -/
def Resp.getNat : Resp → Nat
  | .nat n => n
  | _ => 0
/-- The 32-bit word of an answer. -/
def Resp.getWord : Resp → Word
  | .word w => w
  | _ => 0
/-- The 64-bit quantity of an answer. -/
def Resp.getDWord : Resp → DWord
  | .dword w => w
  | _ => 0
/-- The handle of an answer. -/
def Resp.getHandle : Resp → Option Handle
  | .handle h => h
  | _ => none
/-- The handles of an answer. -/
def Resp.getHandles : Resp → List Handle
  | .handles hs => hs
  | _ => []
/-- The regions of an answer. -/
def Resp.getRegions : Resp → List Region
  | .regions rs => rs
  | _ => []
/-- The RX entry of an answer. -/
def Resp.getRx : Resp → RxEntry
  | .rx e => e
  | _ => .empty
/-- The TX entry of an answer. -/
def Resp.getTx : Resp → TxEntry
  | .tx e => e
  | _ => .empty
/-- The RX entries of an answer. -/
def Resp.getRxs : Resp → List RxEntry
  | .rxs es => es
  | _ => []
/-- The TX entries of an answer. -/
def Resp.getTxs : Resp → List TxEntry
  | .txs es => es
  | _ => []
/-- The result code of an answer. -/
def Resp.getCode : Resp → Code
  | .code c => c
  | _ => .ok
/-- The queues of an answer. -/
def Resp.getQueues : Resp → List (Kind × Nat)
  | .queues qs => qs
  | _ => []
/-- The segments of an answer. -/
def Resp.getSegments : Resp → List Handle × Bool
  | .segments hs b => (hs, b)
  | _ => ([], false)


/-- End with a code. -/
def Prog.done (c : Code) : Prog := .ret (Result.only c)

/-- One atomic change of the state (a register write). -/
def Prog.set (f : State → State) (k : Prog) : Prog := .ev (fun s => .ok (f s) .unit) fun _ => k

/-- Read a flag. -/
def Prog.askFlag (f : State → Bool) (k : Bool → Prog) : Prog := .ev (fun s => .ok s (.flag (f s))) fun r => k r.getFlag
/-- Read a number. -/
def Prog.askNat (f : State → Nat) (k : Nat → Prog) : Prog := .ev (fun s => .ok s (.nat (f s))) fun r => k r.getNat
/-- Read a 64-bit register; of an operand, the value it holds at this event and not at the write of `CMD` (log 36). -/
def Prog.askDWord (f : State → DWord) (k : DWord → Prog) : Prog :=
  .ev (fun s => .ok s (.dword (f s))) fun r => k r.getDWord
/-- Read a list of handles. -/
def Prog.askHandles (f : State → List Handle) (k : List Handle → Prog) : Prog :=
  .ev (fun s => .ok s (.handles (f s))) fun r => k r.getHandles
/-- Read a packet's regions. -/
def Prog.askRegions (f : State → List Region) (k : List Region → Prog) : Prog :=
  .ev (fun s => .ok s (.regions (f s))) fun r => k r.getRegions
/-- Read an RX in-flight entry. -/
def Prog.askRx (f : State → RxEntry) (k : RxEntry → Prog) : Prog := .ev (fun s => .ok s (.rx (f s))) fun r => k r.getRx
/-- Read a TX in-flight entry. -/
def Prog.askTx (f : State → TxEntry) (k : TxEntry → Prog) : Prog := .ev (fun s => .ok s (.tx (f s))) fun r => k r.getTx
/-- Read an RX in-flight array. -/
def Prog.askRxs (f : State → List RxEntry) (k : List RxEntry → Prog) : Prog :=
  .ev (fun s => .ok s (.rxs (f s))) fun r => k r.getRxs
/-- Read a TX in-flight array. -/
def Prog.askTxs (f : State → List TxEntry) (k : List TxEntry → Prog) : Prog :=
  .ev (fun s => .ok s (.txs (f s))) fun r => k r.getTxs
/-- Read a list of queues. -/
def Prog.askQueues (f : State → List (Kind × Nat)) (k : List (Kind × Nat) → Prog) : Prog :=
  .ev (fun s => .ok s (.queues (f s))) fun r => k r.getQueues

/-- Several tests and the write that follows them as one atomic step: the code of the first test that fails, or `ok`
with the state written. -/
def Prog.check (f : State → Code) (g : State → State) (k : Code → Prog) : Prog :=
  .ev (fun s => if f s = .ok then .ok (g s) (.code .ok) else .ok s (.code (f s))) fun r => k r.getCode

/-- What the tests of an operation on a handle come to: they pass, one fails with its code, or the handle or its
packet is outside the contract of its agent and there is no step (70 R413). -/
inductive Verdict where
  | pass
  | code (c : Code)
  | refuse (r : Refusal)
  deriving DecidableEq, Repr

/-- As `check`, for tests that may come to no step. -/
def Prog.gate (f : State → Verdict) (g : State → State) (k : Code → Prog) : Prog :=
  .ev (fun s =>
      match f s with
      | .pass => .ok (g s) (.code .ok)
      | .code c => .ok s (.code c)
      | .refuse r => .refuse r)
    fun r => k r.getCode

/-- Test-and-set in one atomic step: the test's answer, and the write where it holds. -/
def Prog.testAndSet (p : State → Bool) (g : State → State) (k : Bool → Prog) : Prog :=
  .ev (fun s => if p s then .ok (g s) (.flag true) else .ok s (.flag false)) fun r => k r.getFlag

/-- Wait until a condition holds. -/
def Prog.await (p : State → Bool) (k : Prog) : Prog := .ev (fun s => if p s then .ok s .unit else .wait) fun _ => k

/-- Go on only where a contract holds; otherwise the model admits no step. -/
def Prog.require (p : State → Bool) (r : Refusal) (k : Prog) : Prog :=
  .ev (fun s => if p s then .ok s .unit else .refuse r) fun _ => k

/-- `lock(L)` by context `c` (20 R104). -/
def Prog.lock (n : LockName) (c : Nat) (k : Prog) : Prog :=
  .ev (fun s => if s.lockOf n = .free then .ok (s.setLock n (.held c)) .unit else .wait) fun _ => k

/-- `unlock(L)` (20 R104). -/
def Prog.unlock (n : LockName) (k : Prog) : Prog := Prog.set (fun s => s.setLock n .free) k

/-- `WB()` (20 R98): an event of its own; events are performed at once and in order (log 2). -/
def Prog.writeBarrier (k : Prog) : Prog := Prog.set (fun s => s) k

/-- `RB()` (20 R99): as `writeBarrier` (log 2). -/
def Prog.readBarrier (k : Prog) : Prog := Prog.set (fun s => s) k

/-- `MemRead(addr, 4)` (00 R11, 20 R90). -/
def Prog.read32 (a : State → Nat) (k : Word → Prog) : Prog :=
  .ev (fun s => if a s + 4 ≤ addressSpace then .ok s (.word (readWord s.mem (a s))) else .fault .outsideAddressSpace)
    fun r => k r.getWord

/-- `MemWrite(addr, 4, v)` (00 R11, 20 R90). -/
def Prog.write32 (a : State → Nat) (v : Word) (k : Prog) : Prog :=
  .ev (fun s => if a s + 4 ≤ addressSpace then .ok (s.setMem (writeWord s.mem (a s) v)) .unit
      else .fault .outsideAddressSpace) fun _ => k

/-- `MemWrite(addr, 8, v)` (00 R11, 20 R90). -/
def Prog.write64 (a : State → Nat) (v : DWord) (k : Prog) : Prog :=
  .ev (fun s => if a s + 8 ≤ addressSpace then .ok (s.setMem (writeDWord s.mem (a s) v)) .unit
      else .fault .outsideAddressSpace) fun _ => k

/-- The same steps for every element of a list, in order, then the rest. -/
def Prog.forEach {β : Type} (l : List β) (body : β → Prog → Prog) (k : Prog) : Prog := l.foldr body k

/-- `raise <Fault>` (00 R11, 60 R356): the fault is recorded, and what follows is the abandoning of the operation. -/
def Prog.raise (f : FaultCode) (k : Prog) : Prog := Prog.set (fun s => s.recordFault f) k

/-- `Alloc(rx_buffer_size + ALIGN_SLACK)` for context `c` (45 R332): the next answer of the allocator; with no
answer left it declines (log 4); an answer outside its contract is no step (70 R413). The buffer's bytes stay what
they were (log 38). -/
def Prog.alloc (c : Nat) (k : Option Handle → Prog) : Prog :=
  .ev (fun s =>
      match s.env.bufAnswers with
      | some (h, a) :: rest =>
        if !s.live h && s.freshRange a.toNat s.bufferCapacity then
          .ok ((s.modEnv fun e => { e with bufAnswers := rest }).setBufs
            (insertBuf s.bufs h (freshBuffer c s.bufferCapacity a))) (.handle (some h))
        else .refuse .allocatorContract
      | none :: rest => .ok (s.modEnv fun e => { e with bufAnswers := rest }) (.handle none)
      | [] => .ok s (.handle none))
    fun r => k r.getHandle

/-- `Free(h)` (45 R333). -/
def Prog.free (h : Handle) (k : Prog) : Prog := Prog.set (fun s => s.freeBuf h) k

/-- `AllocRing(bytes)` (45 R331): as `alloc`; the base is a multiple of 16. The bytes stay what they were (log 38). -/
def Prog.allocRing (bytes : Nat) (k : Option DWord → Prog) : Prog :=
  .ev (fun s =>
      match s.env.ringAnswers with
      | some a :: rest =>
        if decide (a.toNat % 16 = 0) && s.freshRange a.toNat bytes then
          .ok ((s.modEnv fun e => { e with ringAnswers := rest }).setRings ((a.toNat, bytes) :: s.liveRings))
            (.handle (some a))
        else .refuse .allocatorContract
      | none :: rest => .ok (s.modEnv fun e => { e with ringAnswers := rest }) (.handle none)
      | [] => .ok s (.handle none))
    fun r => k r.getHandle

/-- `IrqRegister(IRQ_LINE[g], g)` (45 R334): the next answer; with none left the registrar declines (log 4). On
success the line is registered. -/
def Prog.irqRegister (g : Nat) (k : Bool → Prog) : Prog :=
  .ev (fun s =>
      match s.env.irqAnswers with
      | true :: rest =>
        .ok ((s.modEnv fun e => { e with irqAnswers := rest }).modGrp g fun x => { x with irqRegistered := true })
          (.flag true)
      | false :: rest => .ok (s.modEnv fun e => { e with irqAnswers := rest }) (.flag false)
      | [] => .ok s (.flag false))
    fun r => k r.getFlag


/-- `enter` of a controller-level operation: `if ctl_busy then return ERR_STATE else ctl_busy <- true`, one atomic
step (44 R279). -/
def enter (k : Prog) : Prog :=
  Prog.testAndSet (fun s => !s.dev.ctlBusy) (fun s => s.modDev fun d => { d with ctlBusy := true })
    fun entered => if entered then k else Prog.done .errState

/-- `leave`, then the result (44 R279). -/
def leave (c : Code) : Prog := Prog.set (fun s => s.modDev fun d => { d with ctlBusy := false }) (Prog.done c)

/-- `try_schedule(g)`: the single-shot schedule primitive, one atomic step (20 R111). -/
def trySchedule (g : Nat) (k : Bool → Prog) : Prog :=
  Prog.testAndSet (fun s => !(s.grp g).pollScheduled) (fun s => s.modGrp g fun x => { x with pollScheduled := true }) k

end Sys2Proof.Machine
end

