-- ==== Sys2Proof/Machine/Flags.lean ====
section
/-! DEFINITION. The flags of a descriptor (spec 30 R121 to R126) and every word the controller and the engine compute
from them: what is written when a slot is armed, filled, committed, cleaned or written back, and which error counters
a completed descriptor increments (43 R233, R246). -/

namespace Sys2Proof.Machine

/-- `status ++ length` (30 R121). -/
def lstatusOf (status : Half) (len : Nat) : Word := status ++ BitVec.ofNat 16 len

/-- `lstatus[31:16]` (30 R121). -/
def statusOf (w : Word) : Half := w.extractLsb' 16 16

/-- `lstatus[15:0]` (30 R121). -/
def lengthOf (w : Word) : Nat := (w.extractLsb' 0 16).toNat

/-- The ownership flag, `EMPTY` or `READY`, bit 15 of `status` (30 R123, R124). -/
def engineOwned (w : Word) : Bool := w.getLsbD 31

/-- The `WRAP` flag, bit 13 of `status` (30 R123, R124). -/
def wrapFlag (w : Word) : Bool := w.getLsbD 29

/-- The `INTERRUPT` flag, bit 12 of `status` (30 R123, R124). -/
def interruptFlag (w : Word) : Bool := w.getLsbD 28

/-- The `LAST` flag, bit 11 of a TX `status` (30 R124). -/
def lastFlag (w : Word) : Bool := w.getLsbD 27

/-- `WRAP` where the slot is the last of its ring, else 0 (30 R126, `W`). -/
def wrapOf (i n : Nat) : Half := if i + 1 = n then 0x2000 else 0

/-- `status` of an armed RX slot: `EMPTY | INTERRUPT`, `WRAP` if last (40 R166). -/
def armStatus (i n : Nat) : Half := 0x9000 ||| wrapOf i n

/-- `status` of descriptor `k` of a frame of `nbd` as the walk writes it into slot `i`: the first without its
ownership flag, the others `READY`, the last also `LAST | INTERRUPT` (42 R206). -/
def walkStatus (k nbd i n : Nat) : Half :=
  if k = 0 then wrapOf i n
  else 0x8000 ||| wrapOf i n ||| (if k + 1 = nbd then 0x1800 else 0)

/-- `status` of the first descriptor at the commit (42 R208). -/
def commitStatus (nbd i n : Nat) : Half := 0x8000 ||| wrapOf i n ||| (if nbd = 1 then 0x1800 else 0)

/-- `lstatus` of a cleaned TX descriptor: `WRAP` kept, length 0 (43 R247). -/
def cleanedWord (w : Word) : Word := lstatusOf (statusOf w &&& 0x2000) 0

/-- `RX_ERR_MASK` (30 R123). -/
def rxErrMask : Half := 0x003F

/-- `TX_ERR_MASK` (30 R124). -/
def txErrMask : Half := 0x00C2

/-- `lstatus` the engine writes back for a received frame: `EMPTY` clear, `WRAP` and `INTERRUPT` kept (45 R322). -/
def rxWriteback (w : Word) (errs : Half) (len : Nat) : Word := lstatusOf ((statusOf w &&& 0x3000) ||| errs) len

/-- `lstatus` the engine writes back for a consumed TX descriptor: `READY` clear, `WRAP`, `INTERRUPT`, `LAST` and the
length kept, error flags only on the `LAST` descriptor (45 R324). -/
def txWriteback (w : Word) (errs : Half) : Word :=
  lstatusOf ((statusOf w &&& 0x3800) ||| (if lastFlag w then errs else 0)) (lengthOf w)

/-- `TRUNC` (30 R123). -/
def truncFlag : Half := 0x0001

/-- Counter numbers (30 R136). -/
def ctrRxLen : Nat := 0
/-- `st_rx_crc` -/
def ctrRxCrc : Nat := 1
/-- `st_rx_overrun` -/
def ctrRxOverrun : Nat := 2
/-- `st_rx_trunc` -/
def ctrRxTrunc : Nat := 3
/-- `st_tx_fifo` -/
def ctrTxFifo : Nat := 4
/-- `st_tx_wincol` -/
def ctrTxWincol : Nat := 5
/-- `st_rx_nobuf` -/
def ctrRxNobuf : Nat := 6
/-- `st_rx_nonoctet` -/
def ctrRxNonoctet : Nat := 7

/-- A length error of a received frame: `LARGE`, `SHORT`, longer than `maxfrm + hdr`, or not longer than the header
(43 R233). -/
def rxLengthError (st : Half) (len maxfrm hdr : Nat) : Bool :=
  st.getLsbD 5 || st.getLsbD 3 || decide (maxfrm + hdr < len) || decide (len ≤ hdr)

/-- The counters a received frame increments, each once; the frame is bad when there is one (43 R233). -/
def rxErrorCounters (st : Half) (len maxfrm hdr : Nat) : List Nat :=
  (if rxLengthError st len maxfrm hdr then [ctrRxLen] else []) ++
  (if st.getLsbD 4 then [ctrRxNonoctet] else []) ++
  (if st.getLsbD 2 then [ctrRxCrc] else []) ++
  (if st.getLsbD 1 then [ctrRxOverrun] else []) ++
  (if st.getLsbD 0 then [ctrRxTrunc] else [])

/-- The counters a completed TX frame increments: `UNDERRUN` a FIFO error, `LATECOL` or `RETRYLIM` one
window/collision error (43 R246). -/
def txErrorCounters (st : Half) : List Nat :=
  (if st.getLsbD 1 then [ctrTxFifo] else []) ++ (if st.getLsbD 7 || st.getLsbD 6 then [ctrTxWincol] else [])

end Sys2Proof.Machine
end

