-- ==== Sys2Proof/Machine/Operands.lean ====
section
/-! DEFINITION. Operand assembly (spec 30 R128): operands are unsigned; where the table narrows one, the upper bits
must be zero, and an operand out of its range is `ERR_BAD_ARG`. -/

namespace Sys2Proof.Machine

/-- `ARGn[31:0]`, where the upper bits are zero (30 R128). -/
def low32 (a : DWord) : Option Nat := if a.toNat < 2 ^ 32 then some a.toNat else none

/-- `ARGn[15:0]`, where the upper bits are zero (30 R128). -/
def low16 (a : DWord) : Option Nat := if a.toNat < 2 ^ 16 then some a.toNat else none

/-- The budget of `GROUP_POLL`: 1..2^32-1 (30 R128, 43 R255). -/
def pollBudget (a : DWord) : Option Nat := (low32 a).filter fun n => 0 < n

/-- The segment size of `SUBMIT_SEG`: 1..65535 (30 R128, 42 R215). -/
def segmentSize (a : DWord) : Option Nat := (low16 a).filter fun n => 0 < n

/-- The coalescing pair of `SET_COALESCE`: max_frames 1..255, max_delay 0..65535 (44 R276). -/
def coalesceOperand (frames delay : DWord) : Option Coalesce :=
  if 1 ≤ frames.toNat ∧ frames.toNat ≤ 255 ∧ delay.toNat ≤ 65535 then
    some ⟨BitVec.ofNat 8 frames.toNat, BitVec.ofNat 16 delay.toNat⟩
  else none

/-- A queue of the kind exists (30 R128; log 9). -/
def State.hasQueue (s : State) (k : Kind) (q : Nat) : Bool := decide (q < s.numQueues k)

/-- A group exists (30 R128; log 9). -/
def State.hasGroup (s : State) (g : Nat) : Bool := decide (g < s.numGroups)

/-- A slot of an allocated ring of an existing queue (40 R166, R169, R172: `0 <= i < N`). -/
def State.hasSlot (s : State) (k : Kind) (q i : Nat) : Bool :=
  s.hasQueue k q && s.ringAlloc k q && decide (i < s.ringSize k q)

/-- A boolean as a 64-bit result (30 R128: 1 or 0). -/
def boolResult (b : Bool) : DWord := if b then 1 else 0

/-- A number as a 64-bit result (30 R128). -/
def natResult (n : Nat) : DWord := BitVec.ofNat 64 n

end Sys2Proof.Machine
end

