-- ==== Sys2Proof/Machine/Registers.lean ====
section
/-! DEFINITION. The register map (spec 30 R130 to R136): what a host read of an offset gives and what a host write
does, with the access rights. A write of `CMD` starts an operation and stands in Run.lean. -/

namespace Sys2Proof.Machine

/-- Result codes as `STATUS[7:0]` (30 R139). -/
def codeBits : Code → Word
  | .ok => 0x00
  | .busy => 0x01
  | .errOutOfMemory => 0x02
  | .errIrq => 0x03
  | .errInvalidMtu => 0x04
  | .errAllocFail => 0x05
  | .errState => 0x06
  | .errReservedOp => 0x07
  | .errBadArg => 0x08
  | .errNotPending => 0x09
  | .errSegFailed => 0x0A
  | .errUnsupported => 0x0B
  | .errBadConfig => 0x0C
  | .errFatal => 0x0D

/-- Fault codes as `LASTERR[7:0]` (60 R354). -/
def faultBits : FaultCode → Word
  | .none => 0x00
  | .txNoHandle => 0x10
  | .rxNoHandle => 0x11
  | .txTimeout => 0x12
  | .stopTimeout => 0x13
  | .restartFailed => 0x14

/-- `dev_state` as `DEVSTAT[2:1]` (30 R132). -/
def devStateBits : DevState → Word
  | .down => 0
  | .up => 1
  | .stopping => 2

/-- A flag at a bit position of a register. -/
def flagAt (b : Bool) (i : Nat) : Word := if b then 1 <<< i else 0

/-- A number in a register field of `w` bits from bit 0. -/
def fieldOf (w n : Nat) : Word := (BitVec.ofNat w n).setWidth 32

/-- The high word of a 64-bit register, at the lower offset (30 R130). -/
def highWord (d : DWord) : Word := d.extractLsb' 32 32
/-- The low word of a 64-bit register (30 R130). -/
def lowWord (d : DWord) : Word := d.extractLsb' 0 32
/-- A 64-bit register with its high word written. -/
def withHigh (d : DWord) (w : Word) : DWord := w ++ lowWord d
/-- A 64-bit register with its low word written. -/
def withLow (d : DWord) (w : Word) : DWord := highWord d ++ w

/-- `STATUS[c]`: bit 31 `busy[c]`, bits 7:0 the code (30 R129, R131, R138). -/
def statusRegister (b : Bank) : Word := flagAt b.busy 31 ||| codeBits b.status

/-- `DEVSTAT` (30 R132). -/
def State.devstat (s : State) : Word :=
  flagAt (decide (s.dev.devState = .up)) 0 ||| (devStateBits s.dev.devState <<< 1) ||| flagAt s.dev.resetPending 3 |||
    flagAt s.pool.init 4 ||| flagAt s.dev.ctlBusy 5

/-- `GRP_STAT[g]` (30 R134). -/
def State.grpStat (s : State) (g : Nat) : Word :=
  flagAt (s.grp g).pollScheduled 0 ||| flagAt (s.grp g).pollRunning 1 ||| flagAt (s.grp g).irqRegistered 2 |||
    flagAt (s.line g) 3

/-- `RXIC`, `TXIC`: bits 23:16 `max_frames`, 15:0 `max_delay` (30 R135). -/
def icRegister (v : Coalesce) : Word := (v.maxFrames.setWidth 32 <<< 16) ||| v.maxDelay.setWidth 32

/-- A register of a command bank, by its offset in the bank (30 R131); `CMD` reads 0. -/
def readBank (b : Bank) (r : Nat) : Word :=
  match r with
  | 0x04 => statusRegister b
  | 0x08 => highWord b.arg0
  | 0x0C => lowWord b.arg0
  | 0x10 => highWord b.arg1
  | 0x14 => lowWord b.arg1
  | 0x18 => highWord b.arg2
  | 0x1C => lowWord b.arg2
  | 0x20 => highWord b.rval0
  | 0x24 => lowWord b.rval0
  | 0x28 => highWord b.rval1
  | 0x2C => lowWord b.rval1
  | _ => 0

/-- A device register, by its offset from 0x400 (30 R132, R133); `TXPOLL` reads 0. -/
def State.readDevice (s : State) (r : Nat) : Word :=
  match r with
  | 0x00 => s.devstat
  | 0x04 => faultBits s.dev.lastErr
  | 0x08 => s.dev.dmactrl.setWidth 32
  | 0x0C => s.dev.macctrl.setWidth 32
  | 0x10 => s.dev.devevent.setWidth 32
  | 0x14 => s.dev.idlestat.setWidth 32
  | 0x1C => s.dev.linkcfg
  | 0x20 => fieldOf 16 s.dev.mtu
  | 0x24 => fieldOf 16 s.dev.maxfrm
  | 0x28 => fieldOf 16 s.dev.rxBufSize
  | 0x2C => s.dev.caps.setWidth 32
  | 0x30 => s.dev.nqueues.setWidth 32
  | _ => 0

/-- A group register, by its offset in the block (30 R134). -/
def State.readGroup (s : State) (g r : Nat) : Word :=
  match r with
  | 0x00 => (s.grp g).ievent.setWidth 32
  | 0x04 => (s.grp g).imask.setWidth 32
  | 0x08 => (s.grp g).rxq.setWidth 32
  | 0x0C => (s.grp g).txq.setWidth 32
  | 0x10 => (s.grp g).irqLine
  | 0x14 => s.grpStat g
  | _ => 0

/-- An RX queue register, by its offset in the block (30 R135). -/
def readRxQueue (q : RxQueue) (r : Nat) : Word :=
  match r with
  | 0x00 => highWord q.base
  | 0x04 => lowWord q.base
  | 0x08 => q.size.setWidth 32
  | 0x0C => fieldOf 16 q.cur
  | 0x10 => icRegister q.ic
  | 0x14 => flagAt q.alloc 0
  | _ => 0

/-- A TX queue register, by its offset in the block (30 R136). -/
def readTxQueue (q : TxQueue) (r : Nat) : Word :=
  match r with
  | 0x00 => highWord q.base
  | 0x04 => lowWord q.base
  | 0x08 => q.size.setWidth 32
  | 0x0C => fieldOf 16 q.fill
  | 0x10 => fieldOf 16 q.dirty
  | 0x14 => fieldOf 16 q.free
  | 0x18 => icRegister q.ic
  | 0x1C => flagAt q.alloc 0 ||| flagAt q.stopped 1
  | _ => 0

/-- An access the register space takes: 32 bits, 4-byte aligned (20 R86). -/
def registerAccess (offset : BitVec 12) (size : Nat) : Bool := decide (size = 4 ∧ offset.toNat % 4 = 0)

/-- A host read of the register at an offset (30 R130); an odd access or an offset no register occupies reads 0
(20 R86). -/
def State.readRegister (s : State) (offset : BitVec 12) (size : Nat) : Word :=
  let o := offset.toNat
  if !registerAccess offset size then 0
  else if o < 0x400 then readBank (s.bank (o / 0x40)) (o % 0x40)
  else if o < 0x500 then s.readDevice (o - 0x400)
  else if o < 0x600 then s.readGroup ((o - 0x500) / 0x20) ((o - 0x500) % 0x20)
  else if o < 0x700 then readRxQueue (s.rx ((o - 0x600) / 0x20)) ((o - 0x600) % 0x20)
  else if o < 0x800 then readTxQueue (s.tx ((o - 0x700) / 0x20)) ((o - 0x700) % 0x20)
  else if o < 0x820 then bankGet s.stats 0 ((o - 0x800) / 4)
  else if 0x840 ≤ o ∧ o < 0x860 then bankGet s.snap 0 ((o - 0x840) / 4)
  else 0

/-- The host may write the configuration registers: `DOWN` and not `ctl_busy` (30 R130, `RWD`). -/
def State.configWritable (s : State) : Bool := decide (s.dev.devState = .down) && !s.dev.ctlBusy

/-- A write of an operand register of a bank (30 R131). -/
def writeBank (b : Bank) (r : Nat) (v : Word) : Bank :=
  match r with
  | 0x08 => { b with arg0 := withHigh b.arg0 v }
  | 0x0C => { b with arg0 := withLow b.arg0 v }
  | 0x10 => { b with arg1 := withHigh b.arg1 v }
  | 0x14 => { b with arg1 := withLow b.arg1 v }
  | 0x18 => { b with arg2 := withHigh b.arg2 v }
  | 0x1C => { b with arg2 := withLow b.arg2 v }
  | _ => b

/-- A write of a device configuration register (30 R133): `CAPS` keeps bits 3:0, `NQUEUES` bits 11:0. -/
def writeDevice (d : Device) (r : Nat) (v : Word) : Device :=
  match r with
  | 0x2C => { d with caps := v.setWidth 4 }
  | 0x30 => { d with nqueues := v.setWidth 12 }
  | _ => d

/-- A write of a group configuration register (30 R133). -/
def writeGroup (g : Group) (r : Nat) (v : Word) : Group :=
  match r with
  | 0x08 => { g with rxq := v.setWidth 8 }
  | 0x0C => { g with txq := v.setWidth 8 }
  | 0x10 => { g with irqLine := v }
  | _ => g

/-- A host write of a register that is no command register (30 R130 to R136): operand registers always, `TXPOLL` is
the doorbell, configuration registers only where `configWritable`; everything else is dropped (20 R86, 93 U7). -/
def State.writeRegister (s : State) (offset : BitVec 12) (size : Nat) (v : Word) : State :=
  let o := offset.toNat
  if !registerAccess offset size then s
  else if o < 0x400 then s.modBank (o / 0x40) fun b => writeBank b (o % 0x40) v
  else if o = 0x418 then s.doorbell (v.setWidth 8)
  else if !s.configWritable then s
  else if o < 0x500 then s.modDev fun d => writeDevice d (o - 0x400) v
  else if o < 0x600 then s.modGrp ((o - 0x500) / 0x20) fun g => writeGroup g ((o - 0x500) % 0x20) v
  else if o < 0x700 then
    (if (o - 0x600) % 0x20 = 0x08 then s.modRx ((o - 0x600) / 0x20) fun r => { r with size := v.setWidth 16 } else s)
  else if o < 0x800 then
    (if (o - 0x700) % 0x20 = 0x08 then s.modTx ((o - 0x700) / 0x20) fun t => { t with size := v.setWidth 16 } else s)
  else s

end Sys2Proof.Machine
end

