-- ==== Sys2Proof/Machine/Agents.lean ====
section
/-! DEFINITION. The steps of the agents around the contexts (spec 45 R320 to R327, R340; 60 R366, R367): the DMA
engine, the coalescer, the halt timer, and what the stack does with its own buffers. A step that is not enabled is not
taken (log 17); one that breaks its agent's contract is refused (70 R413). -/

namespace Sys2Proof.Machine

/-- What a move answers. -/
abbrev MoveOutcome := Host.Outcome State Fault Refusal

/-! ### The DMA engine -/

/-- The engine may take receive steps (45 R320). -/
def State.engineRxEnabled (s : State) : Bool :=
  s.dev.dmactrl.getLsbD 1 && s.dev.macctrl.getLsbD 0 && !s.dev.stopAcked

/-- The engine may take transmit steps (45 R320). -/
def State.engineTxEnabled (s : State) : Bool :=
  s.dev.dmactrl.getLsbD 1 && s.dev.macctrl.getLsbD 1 && !s.dev.stopAcked

/-- The engine's next index: 0 after the slot with `WRAP` (45 R322, R324). -/
def engineNext (w : Word) (i : Nat) : Nat := if wrapFlag w then 0 else i + 1

/-- The write-back of a received frame (45 R322): the data, then `lstatus`, then the engine's cursor, then the pulse
where the descriptor asks for one. -/
def State.rxStore (s : State) (q a : Nat) (w : Word) (buf : Nat) (errs : Half) (bytes : List Byte) : State :=
  let s1 := s.setMem (writeWord (writeBytes s.mem buf bytes) a (rxWriteback w errs bytes.length))
  let s2 := s1.modErx q fun e => { e with cur := engineNext w e.cur }
  if interruptFlag w then s2.coalescePulse .rx q else s2

/-- `DMA_RX_FILL(q, L, errs, bytes)` (45 R322, R323): a frame longer than the buffer is stored cut, with `TRUNC`
(log 22). -/
def dmaRxFill (q : Nat) (errs : Half) (bytes : List Byte) (s : State) : MoveOutcome :=
  let stored := bytes.take s.dev.rxBufSize
  let e := if s.dev.rxBufSize < bytes.length then errs ||| truncFlag else errs
  let a := (s.erx q).base.toNat + 16 * (s.erx q).cur
  if !s.engineRxEnabled then .next s
  else if s.numRxq ≤ q ∨ stored = [] ∨ errs &&& ~~~rxErrMask ≠ 0 then .refused .engineContract
  else if addressSpace < a + 16 then .fault .outsideAddressSpace
  else
    let w := readWord s.mem a
    let buf := (readDWord s.mem (a + 8)).toNat
    if !engineOwned w then .next s
    else if addressSpace < buf + stored.length then .fault .outsideAddressSpace
    else .next (s.rxStore q a w buf e stored)

/-- `DMA_TX_CONSUME(q, errs)` (45 R324); what goes on the wire is outside the spec (log 21). -/
def dmaTxConsume (q : Nat) (errs : Half) (s : State) : MoveOutcome :=
  let a := (s.etx q).base.toNat + 16 * (s.etx q).cur
  if !s.engineTxEnabled || (s.etx q).idle then .next s
  else if s.numTxq ≤ q ∨ errs &&& ~~~txErrMask ≠ 0 then .refused .engineContract
  else if addressSpace < a + 16 then .fault .outsideAddressSpace
  else
    let w := readWord s.mem a
    if !engineOwned w then .next (s.modEtx q fun e => { e with idle := true })
    else
      let s1 := s.setMem (writeWord s.mem a (txWriteback w errs))
      let s2 := s1.modEtx q fun e => { e with cur := engineNext w e.cur }
      .next (if interruptFlag w then s2.coalescePulse .tx q else s2)

/-- `DMA_POLL_TICK(q)` (45 R325). -/
def dmaPollTick (q : Nat) (s : State) : State :=
  if s.engineTxEnabled then s.modEtx q fun e => { e with idle := false } else s

/-- `DMA_STOP_ACK` (45 R326): `GSC` may stay unset only where the acknowledgment is unreliable. -/
def dmaStopAck (gsc : Bool) (s : State) : State :=
  if s.dev.dmactrl = 3 ∧ s.dev.stopAcked = false then
    s.modDev fun d =>
      { d with stopAcked := true, idlestat := 3,
               devevent := if gsc || !s.stopAckUnreliable then 1 else d.devevent }
  else s

/-- `DMA_IDLE_UPDATE(v)` (45 R327): while the engine is enabled and has not acknowledged a stop (log 24). -/
def dmaIdleUpdate (v : BitVec 2) (s : State) : State :=
  if s.engineRxEnabled || s.engineTxEnabled then s.modDev fun d => { d with idlestat := v } else s

/-! ### Coalescer and timers -/

/-- `COALESCE_TICK` for one queue (60 R367). -/
def State.tickQueue (s : State) (kq : Kind × Nat) : State :=
  if s.pend kq.1 kq.2 = 0 then s
  else (s.setCoalescer kq.1 kq.2 (s.pend kq.1 kq.2) (min 65535 (s.elapsed kq.1 kq.2 + 1))).coalesceEval kq.1 kq.2

/-- Every queue of the block. -/
def allQueues : List (Kind × Nat) :=
  (List.range 8).map (fun q => (Kind.rx, q)) ++ (List.range 8).map (fun q => (Kind.tx, q))

/-- `COALESCE_TICK` (60 R367); without a pending pulse it changes nothing. -/
def coalesceTick (s : State) : State := allQueues.foldl State.tickQueue s

/-- `HALT_TIMEOUT_EXPIRE` (45 R340). -/
def haltTimeout (s : State) : State :=
  if s.dev.haltWaiting then s.modDev fun d => { d with haltTimerExpired := true } else s

/-! ### The stack and its own buffers (45 R335, R336; log 18) -/

/-- The stack describes a packet or buffer it owns (42 R201): a handle that is not live, or one it owns already, with
fields in their ranges, in memory that no live ring and no other live buffer has (20 R82). -/
def describe (h : Handle) (info : BufInfo) (s : State) : State :=
  if (s.live h = false ∨ (s.owner h = some .stack ∧ s.mapping h = .none)) ∧ info.legal = true ∧
      (s.modBuf h fun b => { b with live := false }).freshRange info.phys.toNat info.capacity = true then
    s.setBufs (insertBuf s.bufs h { live := true, info := info, owner := .stack, mapped := .none })
  else s

/-- The stack gives up a reference of a buffer it owns, or of one the controller has given up (45 R333). DESIGN CHOICE
(log 43): a packet whose own `SUBMIT` or `SUBMIT_SEG` is in progress is held by that operation (10 R32), so this changes
nothing; the spec gives the stack's free in that moment no outcome (70 R412, R413). -/
def stackFree (h : Handle) (s : State) : State :=
  if s.live h = true ∧ (s.owner h = some .stack ∨ s.owner h = some .freed) then
    s.modBuf h fun b =>
      { b with live := decide (b.info.refs - 1 ≠ 0), info := { b.info with refs := b.info.refs - 1 },
               owner := if b.info.refs - 1 = 0 then .freed else b.owner }
  else s

/-- The stack writes bytes of a live buffer: one it owns, has references of (45 R333) or is submitting, and, in breach of its duty,
one that is mapped, where it races with the engine (20 R112, 70 R412: "the engine and the host race on the data"); the
agenda's order decides the race (log 17). -/
def stackWrite (h : Handle) (offset : Nat) (bytes : List Byte) (s : State) : State :=
  match s.buf h with
  | some b =>
    if b.live = true ∧ (b.owner = .stack ∨ inSubmit b.owner = true ∨ b.owner = .freed ∨ b.mapped ≠ .none) ∧
        offset + bytes.length ≤ b.info.capacity ∧
        b.info.phys.toNat + b.info.capacity ≤ addressSpace then
      s.setMem (writeBytes s.mem (b.info.phys.toNat + offset) bytes)
    else s
  | none => s

end Sys2Proof.Machine
end

