-- ==== Sys2Proof/Machine/Pool.lean ====
section
/-! DEFINITION. The recycle pool (spec 41): `POOL_INIT`, `POOL_TEARDOWN`, `ACQUIRE`, `RELEASE`, with the internal
forms other operations use. Lists are last-in first-out (41 R180). -/

namespace Sys2Proof.Machine

/-- `local[c] <- l` (10 R34). -/
def State.setLocal (s : State) (c : Nat) (l : List Handle) : State := s.modBank c fun b => { b with localList := l }

/-- `swap(c)`: the local list of `c` and the global list exchanged, with their handles' owners (41 R183). -/
def State.swapLists (s : State) (c : Nat) : State :=
  let l := (s.bank c).localList
  let g := s.pool.global
  ((((s.setLocal c g).modPool fun p => { p with global := l }).setOwners l .globalList).setOwners g (.localList c))

/-- `pop(local[c])` in one step: the head taken out and held by the operation, or nothing where the list is empty
(41 R180, R185). -/
def popLocal (c : Nat) (k : Option Handle → Prog) : Prog :=
  .ev (fun s =>
      match (s.bank c).localList with
      | h :: t => .ok ((s.setLocal c t).setOwner h (.held c)) (.handle (some h))
      | [] => .ok s (.handle none))
    fun r => k r.getHandle

/-- `pop(local[c])` of a list that the operation has just filled: empty only where another operation took the list
away, which is a breach of the host's duty (70 R412; log 25). -/
def popFilled (c : Nat) (k : Option Handle → Prog) : Prog :=
  .ev (fun s =>
      match (s.bank c).localList with
      | h :: t => .ok ((s.setLocal c t).setOwner h (.held c)) (.handle (some h))
      | [] => .refuse .hostDuty)
    fun r => k r.getHandle

/-- `len(local[c]) < RECYCLE_MAX`, and then `push(local[c], h)`, in one step (41 R189). -/
def pushLocal (c : Nat) (h : Handle) (k : Bool → Prog) : Prog :=
  Prog.testAndSet (fun s => decide ((s.bank c).localList.length < s.params.recycleMax))
    (fun s => (s.setLocal c (h :: (s.bank c).localList)).setOwner h (.localList c)) k

/-- `push(local[c], h)` after a swap: `push` needs room (41 R180); no room only after a breach of the host's duty
(log 25). -/
def pushEmptied (c : Nat) (h : Handle) (k : Prog) : Prog :=
  .ev (fun s =>
      if (s.bank c).localList.length < s.params.recycleMax then
        .ok ((s.setLocal c (h :: (s.bank c).localList)).setOwner h (.localList c)) .unit
      else .refuse .hostDuty)
    fun _ => k

/-- `ACQUIRE(c)`, internal form (41 R185): the local list, else one swap under the lock, else the allocator; the
handle is held by the operation. -/
def acquire (c : Nat) (k : Option Handle → Prog) : Prog :=
  popLocal c fun r =>
    match r with
    | some h => k (some h)
    | none =>
      Prog.lock .pool c <|
      Prog.askFlag (fun s => !s.pool.global.isEmpty) fun filled =>
      if filled then
        Prog.set (fun s => s.swapLists c) <|
        Prog.unlock .pool <|
        popFilled c k
      else
        Prog.unlock .pool <|
        Prog.alloc c k

/-- `RELEASE(c, h)`, internal form (41 R189): a handle that is not recycleable is freed; else it is pushed, if need
be after the symmetric swap; else freed. -/
def release (c : Nat) (h : Handle) (k : Prog) : Prog :=
  Prog.askFlag (fun s => s.recycleable h) fun ok =>
  if !ok then Prog.free h k
  else
    pushLocal c h fun pushed =>
    if pushed then k
    else
      Prog.lock .pool c <|
      Prog.askFlag (fun s => s.pool.global.isEmpty) fun empty =>
      if empty then
        Prog.set (fun s => s.swapLists c) <|
        Prog.unlock .pool <|
        pushEmptied c h k
      else
        Prog.unlock .pool <|
        Prog.free h k

/-- `Free(h)` of a handle of `local[c]` (41 R182): it leaves the list and is freed in one event, as 45 R333 asks that a
handle be in no list when it is freed (log 35). -/
def State.freeLocal (s : State) (c : Nat) (h : Handle) : State :=
  (s.setLocal c ((s.bank c).localList.filter fun x => x ≠ h)).freeBuf h

/-- `Free(h)` of a handle of `global`, as `freeLocal` (41 R182; log 35). -/
def State.freeGlobal (s : State) (h : Handle) : State :=
  (s.modPool fun p => { p with global := p.global.filter fun x => x ≠ h }).freeBuf h

/-- `pool_purge()` (41 R182): every pooled buffer freed, every list empty. -/
def poolPurge (k : Prog) : Prog :=
  Prog.askNat (fun s => s.params.numCpus) fun n =>
  Prog.forEach (List.range n) (fun c rest =>
    Prog.askHandles (fun s => (s.bank c).localList) fun hs =>
    Prog.forEach hs (fun h k' => Prog.set (fun s => s.freeLocal c h) k') <|
    Prog.set (fun s => s.setLocal c []) rest) <|
  Prog.askHandles (fun s => s.pool.global) fun hs =>
  Prog.forEach hs (fun h k' => Prog.set (fun s => s.freeGlobal h) k') <|
  Prog.set (fun s => s.modPool fun p => { p with global := [] }) k

/-- `POOL_INIT` (41 R181); the global list and the lock in one event (log 40). -/
def progPoolInit : Prog :=
  enter <|
  Prog.askFlag (fun s => s.pool.init) fun init =>
  if init then leave .errState
  else
    Prog.askNat (fun s => s.params.numCpus) fun n =>
    Prog.forEach (List.range n) (fun c rest => Prog.set (fun s => s.setLocal c []) rest) <|
    Prog.set (fun s => s.modPool fun p => { p with global := [], lock := .free }) <|
    Prog.set (fun s => s.modPool fun p => { p with init := true }) <|
    leave .ok

/-- `POOL_TEARDOWN` (41 R182). -/
def progPoolTeardown : Prog :=
  enter <|
  Prog.askFlag (fun s => !s.pool.init || decide (s.dev.devState ≠ .down)) fun bad =>
  if bad then leave .errState
  else
    poolPurge <|
    Prog.set (fun s => s.modPool fun p => { p with init := false }) <|
    leave .ok

/-- `ACQUIRE` of the host (41 R185): the handle in `RVAL0`, owned by the stack. -/
def progAcquire (c : Nat) : Prog :=
  Prog.askFlag (fun s => s.pool.init) fun init =>
  if !init then Prog.done .errState
  else
    acquire c fun r =>
      match r with
      | none => Prog.done .errAllocFail
      | some h =>
        Prog.set (fun s => s.setOwner h .stack) <|
        .ret { code := .ok, rval0 := some h, rval1 := none }

/-- The tests of the host's `RELEASE`, in order (41 R189); no step for a handle never described (70 R413, 93 U15;
log 11). -/
def releaseVerdict (h : Handle) (s : State) : Verdict :=
  if !s.pool.init then .code .errState
  else
    match s.buf h with
    | none => .refuse .unknownHandle
    | some b => if b.live = false ∨ b.owner ≠ .stack then .code .errBadArg else .pass

/-- `RELEASE` of the host, `ARG0` = handle (41 R189): from the test on the operation holds the handle (10 R32). -/
def progRelease (c : Nat) : Prog :=
  Prog.askDWord (fun s => (s.bank c).arg0) fun h =>
  Prog.gate (releaseVerdict h) (fun s => s.setOwner h (.held c)) fun code =>
  if code = .ok then release c h (Prog.done .ok) else Prog.done code

end Sys2Proof.Machine
end

