-- ==== Sys2Proof/Machine/Ring.lean ====
section
/-! DEFINITION. The descriptor ring (spec 40): the micro-operations as steps of other operations, and each as an
operation of its own with the operands of 30 R128 (log 12). -/

namespace Sys2Proof.Machine

/-- `next(i) = (i + 1) mod N` (40 R172). -/
def nextIndex (i n : Nat) : Nat := (i + 1) % n

/-- `skip(K, q, i, k) = (i + k) mod N` (40 R161). -/
def skipIndex (i k n : Nat) : Nat := (i + k) % n

/-- The ring's base and size registers (40 R162), in one event (log 40). -/
def State.setRing (s : State) (k : Kind) (q : Nat) (base : DWord) (n : Nat) : State :=
  match k with
  | .rx => s.modRx q fun r => { r with base := base, n := n }
  | .tx => s.modTx q fun t => { t with base := base, n := n }

/-- Every in-flight entry of a ring of `n` slots `Empty` (40 R162), in one event (log 40). -/
def State.clearInflight (s : State) (k : Kind) (q n : Nat) : State :=
  match k with
  | .rx => s.modRx q fun r => { r with inflight := List.replicate n .empty }
  | .tx => s.modTx q fun t => { t with inflight := List.replicate n .empty }

/-- Cursors, count, stop flag and phase of a queue with a fresh ring (40 R162), in one event (log 40). -/
def State.freshCursors (s : State) (k : Kind) (q n : Nat) : State :=
  match k with
  | .rx => s.modRx q fun r => { r with cur := 0 }
  | .tx => s.modTx q fun t => { t with fill := 0, dirty := 0, free := n, stopped := false, phase := .readyForWork }

/-- `K_alloc[q]` (40 R162). -/
def State.setAlloc (s : State) (k : Kind) (q : Nat) (b : Bool) : State :=
  match k with
  | .rx => s.modRx q fun r => { r with alloc := b }
  | .tx => s.modTx q fun t => { t with alloc := b }

/-- `RING_INIT(K, q, size)` (40 R162): allocate, zero every descriptor, mark the last with `WRAP`, then the queue's
registers; false where the allocator has no memory, with nothing changed. -/
def ringInit (kd : Kind) (q size : Nat) (k : Bool → Prog) : Prog :=
  Prog.allocRing (16 * size) fun r =>
    match r with
    | none => k false
    | some base =>
      Prog.forEach (List.range size) (fun i rest =>
        Prog.write32 (fun _ => base.toNat + 16 * i) 0 <|
        Prog.write32 (fun _ => base.toNat + 16 * i + 4) 0 <|
        Prog.write64 (fun _ => base.toNat + 16 * i + 8) 0 rest) <|
      Prog.write32 (fun _ => base.toNat + 16 * (size - 1)) 0x20000000 <|
      Prog.set (fun s => s.setRing kd q base size) <|
      Prog.set (fun s => s.clearInflight kd q size) <|
      Prog.set (fun s => s.freshCursors kd q size) <|
      Prog.set (fun s => s.setCoalescer kd q 0 0) <|
      Prog.set (fun s => s.setAlloc kd q true) <|
      k true

/-- The registers of a queue whose ring is freed: back to their reset value 0 (40 R165, 90 C11). One event: no other
agent sees some of them returned and others not, which the spec leaves open. DESIGN CHOICE (log 40). -/
def State.ringFreed (s : State) (kd : Kind) (q : Nat) : State :=
  match kd with
  | .rx => s.modRx q fun r => { r with alloc := false, base := 0, n := 0, cur := 0, inflight := [] }
  | .tx => s.modTx q fun t => { t with alloc := false, base := 0, n := 0, fill := 0, dirty := 0, free := 0,
                                       inflight := [] }

/-- `FreeRing(base)` (45 R331): the ring is no longer live. -/
def State.freeRing (s : State) (base : Nat) : State := s.setRings (s.liveRings.filter fun r => r.1 ≠ base)

/-- `ring_free(K, q)` (40 R165); nothing for an unallocated ring. -/
def ringFree (kd : Kind) (q : Nat) (k : Prog) : Prog :=
  Prog.askFlag (fun s => s.ringAlloc kd q) fun a =>
    if a then
      Prog.set (fun s => s.freeRing (s.ringBase kd q).toNat) <|
      Prog.set (fun s => s.ringFreed kd q) k
    else k

/-- `ARM_RX(q, i, a)` (40 R166): the address, the write barrier, then the flags with length 0. -/
def armRx (q i : Nat) (a : DWord) (k : Prog) : Prog :=
  Prog.askNat (fun s => (s.rx q).n) fun n =>
  Prog.write64 (fun s => s.desc .rx q i + 8) a <|
  Prog.writeBarrier <|
  Prog.write32 (fun s => s.desc .rx q i) (lstatusOf (armStatus i n) 0) k

/-- `SLOT_READY(K, q, i)` (40 R169): whether the ownership flag is clear, and the word read. -/
def slotReady (kd : Kind) (q i : Nat) (k : Bool → Word → Prog) : Prog :=
  Prog.read32 (fun s => s.desc kd q i) fun w => k (!engineOwned w) w

/-- `RING_NEXT(K, q, i)` (40 R172): 0 at the slot with `WRAP`, else the next index. DESIGN CHOICE (log 44): where the
`WRAP` flag is corrupted, which no rule produces (93 U31), it still answers by the flag. -/
def ringNext (kd : Kind) (q i : Nat) (k : Nat → Prog) : Prog :=
  Prog.read32 (fun s => s.desc kd q i) fun w => k (if wrapFlag w then 0 else i + 1)

/-- `RING_INIT` as an operation: `ARG0` = size (30 R128). Outside its precondition, an allocated ring or a size that
is no legal ring size, the model refuses it (40 R164; log 13). -/
def progRingInit (c : Nat) (kd : Kind) (q : Nat) : Prog :=
  Prog.askDWord (fun s => (s.bank c).arg0) fun size =>
  Prog.askFlag (fun s => s.hasQueue kd q) fun ok =>
  if !ok then Prog.done .errBadArg
  else
    Prog.require (fun s => !s.ringAlloc kd q && legalRingSize size.toNat) .outsideContract <|
    ringInit kd q size.toNat fun done => Prog.done (if done then .ok else .errOutOfMemory)

/-- `ARM_RX` as an operation: `ARG0` = index, `ARG1` = address (30 R128). A slot the engine owns is outside its
precondition (40 R166; log 13). -/
def progArmRx (c : Nat) (q : Nat) : Prog :=
  Prog.askDWord (fun s => (s.bank c).arg0) fun i =>
  Prog.askDWord (fun s => (s.bank c).arg1) fun a =>
  Prog.askFlag (fun s => s.hasSlot .rx q i.toNat) fun ok =>
  if !ok then Prog.done .errBadArg
  else
    slotReady .rx q i.toNat fun ready _ =>
    Prog.require (fun _ => ready) .outsideContract <|
    armRx q i.toNat a <|
    Prog.done .ok

/-- `SLOT_READY` as an operation: `ARG0` = index, the answer in `RVAL0` (30 R128). -/
def progSlotReady (c : Nat) (kd : Kind) (q : Nat) : Prog :=
  Prog.askDWord (fun s => (s.bank c).arg0) fun i =>
  Prog.askFlag (fun s => s.hasSlot kd q i.toNat) fun ok =>
  if !ok then Prog.done .errBadArg
  else slotReady kd q i.toNat fun ready _ => .ret { code := .ok, rval0 := some (boolResult ready), rval1 := none }

/-- `RING_NEXT` as an operation: `ARG0` = index, the next index in `RVAL0` (30 R128). -/
def progRingNext (c : Nat) (kd : Kind) (q : Nat) : Prog :=
  Prog.askDWord (fun s => (s.bank c).arg0) fun i =>
  Prog.askFlag (fun s => s.hasSlot kd q i.toNat) fun ok =>
  if !ok then Prog.done .errBadArg
  else ringNext kd q i.toNat fun j => .ret { code := .ok, rval0 := some (natResult j), rval1 := none }

end Sys2Proof.Machine
end

