-- ==== Sys2Proof/Machine/Transmit.lean ====
section
/-! DEFINITION. The transmit path (spec 42): `SUBMIT` and `SUBMIT_SEG`. -/

namespace Sys2Proof.Machine

/-- `tx_phase[q] <- p` (10 R41). -/
def State.setPhase (s : State) (q : Nat) (p : TxPhase) : State := s.modTx q fun t => { t with phase := p }

/-- `tx_stopped[q] <- true` (42 R204). -/
def State.stopQueue (s : State) (q : Nat) : State := s.modTx q fun t => { t with stopped := true }

/-- `tx_inflight[q][i] <- e` (10 R25). -/
def State.setTxEntry (s : State) (q i : Nat) (e : TxEntry) : State :=
  s.modTx q fun t => { t with inflight := t.inflight.set i e }

/-- The walk over a frame's regions (42 R206): region `j + k` of the frame into slot `(f + j + k) mod N`, address
first, then flags and length. -/
def submitWalk (q f n nbd : Nat) (bufs : List Region) (k : Prog) : Prog :=
  Prog.forEach (bufs.zipIdx) (fun rj rest =>
    Prog.write64 (fun s => s.desc .tx q (skipIndex f rj.2 n) + 8) rj.1.addr <|
    Prog.write32 (fun s => s.desc .tx q (skipIndex f rj.2 n))
      (lstatusOf (walkStatus rj.2 nbd (skipIndex f rj.2 n) n) rj.1.len) rest) k

/-- The commit of a frame of `nbd` descriptors that starts at slot `f` of `n` (42 R208), under `tx_lock[q]`: the
barrier, the commit store, the barrier, the in-flight entries with `Head` last, the cursor, the count, the phase, the
doorbell (42 R209). -/
def submitCommit (c q : Nat) (h : Handle) (f n nbd len0 : Nat) (k : Prog) : Prog :=
  Prog.lock (.tx q) c <|
  Prog.writeBarrier <|
  Prog.write32 (fun s => s.desc .tx q f) (lstatusOf (commitStatus nbd f n) len0) <|
  Prog.writeBarrier <|
  Prog.forEach (List.range (nbd - 1)) (fun j rest =>
    Prog.set (fun s => s.setTxEntry q (skipIndex f (j + 1) n) (.cont f)) rest) <|
  Prog.set (fun s => (s.setTxEntry q f (.head h nbd)).setOwner h (.slot .tx q f)) <|
  Prog.set (fun s => s.modTx q fun t => { t with fill := skipIndex f nbd n }) <|
  Prog.set (fun s => s.modTx q fun t => { t with free := t.free - nbd }) <|
  Prog.set (fun s => s.setPhase q .doorbell) <|
  Prog.set (fun s => s.doorbell (1 <<< q)) <|
  Prog.unlock (.tx q) k

/-- `submit_frame(c, q, h)` (42 R206, R208): the regions mapped, the walk, the commit. -/
def submitFrame (c q : Nat) (h : Handle) (k : Prog) : Prog :=
  Prog.askNat (fun s => (s.tx q).fill) fun f =>
  Prog.askNat (fun s => (s.tx q).n) fun n =>
  Prog.askRegions (fun s => s.regions h) fun bufs =>
  Prog.set (fun s => s.setMapped h .toDevice) <|
  submitWalk q f n bufs.length bufs <|
  submitCommit c q h f n bufs.length ((bufs.head?.map (·.len)).getD 0) k

/-- The packet taken from the stack by the operation, with the step to `SPACE_CHECK`: held, so that it is in one place
until the result (10 R32; log 43). -/
def State.takePacket (s : State) (c q : Nat) (h : Handle) : State :=
  (s.setPhase q .spaceCheck).setOwner h (.submitted c)

/-- The packet back with the stack, with the step to `READY_FOR_WORK`, for every result but `OK` (42 R203, R215). -/
def State.returnPacket (s : State) (q : Nat) (h : Handle) : State := (s.setPhase q .readyForWork).setOwner h .stack

/-- The tests of `SUBMIT` and `SUBMIT_SEG` on a packet, in order, where the ranges of the other operands are in order
or not (42 R203, R212, R215). A packet whose submit is in progress meets them as the stack's, so a second submit on its
queue is `ERR_STATE` (20 R109), and is no packet to take where it passes them (10 R32; log 43). No step for a handle never described (70 R413; log 11), nor, where every test passes, for
a packet that is not complete (42 R202; log 29). -/
def submitVerdict (inRange : Bool) (q : Nat) (h : Handle) (s : State) : Verdict :=
  if !inRange then .code .errBadArg
  else
    match s.buf h with
    | none => .refuse .unknownHandle
    | some b =>
      if b.live = false ∨ (b.owner ≠ .stack ∧ inSubmit b.owner = false) then .code .errBadArg
      else if (s.tx q).phase ≠ .readyForWork then .code .errState
      else if s.dev.devState ≠ .up then .code .busy
      else if b.owner ≠ .stack then .code .errBadArg
      else if wellFormedPacket b.info then .pass
      else .refuse .malformedPacket

/-- The tests of `SUBMIT` or `SUBMIT_SEG`, with the range test of its operands, and the taking of the packet as one
atomic step (42 R203, R215; log 15, log 43). -/
def submitGate (c : Nat) (inRange : State → Bool) (q : Nat) (h : Handle) (k : Code → Prog) : Prog :=
  Prog.gate (fun s => submitVerdict (inRange s) q h s) (fun s => s.takePacket c q h) k

/-- `SUBMIT(c, q, h)`, `ARG0` = packet handle (42 R203). -/
def progSubmit (c q : Nat) : Prog :=
  Prog.askDWord (fun s => (s.bank c).arg0) fun h =>
  submitGate c (fun s => s.hasQueue .tx q) q h fun code =>
  if code ≠ .ok then Prog.done code
  else
    Prog.askNat (fun s => s.required h) fun need =>
    Prog.lock (.tx q) c <|
    Prog.askFlag (fun s => decide ((s.tx q).free < need)) fun full =>
    if full then
      Prog.set (fun s => s.stopQueue q) <|
      Prog.unlock (.tx q) <|
      Prog.set (fun s => s.returnPacket q h) <|
      Prog.done .busy
    else
      Prog.unlock (.tx q) <|
      Prog.set (fun s => s.setPhase q .descriptorWrite) <|
      submitFrame c q h <|
      Prog.set (fun s => s.setPhase q .readyForWork) <|
      Prog.done .ok

/-- The new buffers of a segmentation as table entries, held by the operation (42 R216). -/
def State.addSegments (s : State) (c : Nat) (segs : List (Handle × BufInfo)) : State :=
  segs.foldl (fun s e =>
    s.setBufs (insertBuf s.bufs e.1 { live := true, info := e.2, owner := .held c, mapped := .none })) s

/-- What the transform collaborator may answer: distinct handles that are not live, each a complete packet with one
reference at least (42 R216, R201; 10 R30), in memory that is free, no two overlapping (20 R82; log 34). -/
def segmentsOk (s : State) (segs : List (Handle × BufInfo)) : Bool :=
  decide ((segs.map Prod.fst).Nodup) &&
    (segs.all fun e =>
      !s.live e.1 && wellFormedPacket e.2 && e.2.legal && s.freshRange e.2.phys.toNat e.2.capacity) &&
    decide (segs.Pairwise fun a b => disjoint a.2.phys.toNat a.2.capacity b.2.phys.toNat b.2.capacity = true)

/-- `Transform.segment(h, mss)` (42 R216; 45 R338): the next answer; with none left nothing is built and it does not
finish (log 4); an answer outside its contract is no step (70 R413). No byte changes (log 42). -/
def segment (c : Nat) (k : List Handle × Bool → Prog) : Prog :=
  .ev (fun s =>
      match s.env.segAnswers with
      | a :: rest =>
        if segmentsOk s a.segs then
          .ok ((s.modEnv fun e => { e with segAnswers := rest }).addSegments c a.segs)
            (.segments (a.segs.map Prod.fst) a.complete)
        else .refuse .transformContract
      | [] => .ok s (.segments [] false))
    fun r => k r.getSegments

/-- `SUBMIT_SEG(c, q, h, mss)` (42 R215, R217): all segments built, the space for all of them checked once under the
lock, then each committed as a frame of its own; on every failure the built segments are freed. -/
def progSubmitSeg (c q : Nat) : Prog :=
  Prog.askDWord (fun s => (s.bank c).arg0) fun h =>
  Prog.askDWord (fun s => (s.bank c).arg1) fun mss =>
  submitGate c (fun s => s.hasQueue .tx q && (segmentSize mss).isSome) q h fun code =>
  if code ≠ .ok then Prog.done code
  else
    segment c fun built =>
    if !built.2 then
      Prog.forEach built.1 Prog.free <|
      Prog.set (fun s => s.returnPacket q h) <|
      Prog.done .errSegFailed
    else
      Prog.askNat (fun s => (built.1.map s.required).sum) fun total =>
      Prog.lock (.tx q) c <|
      Prog.askFlag (fun s => decide ((s.tx q).free < total)) fun full =>
      if full then
        Prog.set (fun s => s.stopQueue q) <|
        Prog.unlock (.tx q) <|
        Prog.forEach built.1 Prog.free <|
        Prog.set (fun s => s.returnPacket q h) <|
        Prog.done .busy
      else
        Prog.unlock (.tx q) <|
        Prog.set (fun s => s.setPhase q .descriptorWrite) <|
        Prog.forEach built.1 (submitFrame c q) <|
        Prog.free h <|
        Prog.set (fun s => s.setPhase q .readyForWork) <|
        Prog.done .ok

end Sys2Proof.Machine
end

