-- ==== Sys2Proof/Machine/Cleanup.lean ====
section
/-! DEFINITION. Receive and transmit cleanup and the group poll (spec 43): `RX_POLL`, `TX_POLL`, `GROUP_POLL`. -/

namespace Sys2Proof.Machine

/-- How a cleanup loop ended: `done` and the work counted (43 R230), or the fault it raised and the work counted
before it (43 R260). -/
inductive PollEnd where
  | ended (done : Bool) (work : Nat)
  | faulted (work : Nat)
  deriving DecidableEq, Repr

/-! ### RX_POLL -/

/-- `rx_inflight[q][i]` (10 R23). -/
def State.rxEntry (s : State) (q i : Nat) : RxEntry := (s.rx q).inflight.getD i .empty

/-- `rx_inflight[q][i] <- Buf(h)`, with the handle's owner (43 R232). -/
def State.setRxEntry (s : State) (q i : Nat) (h : Handle) : State :=
  (s.modRx q fun r => { r with inflight := r.inflight.set i (.buf h) }).setOwner h (.slot .rx q i)

/-- `rearm(q, i, x)` (43 R232): the buffer mapped for the engine, the slot armed with its address. -/
def rearm (q i : Nat) (x : Handle) (k : Prog) : Prog :=
  Prog.set (fun s => s.setMapped x .fromDevice) <|
  Prog.askDWord (fun s => s.phys x) fun a =>
  armRx q i a k

/-- `Transform.rx_meta(h)` where there is a header, else no metadata (43 R237; 45 R337). -/
def State.rxMeta (s : State) (hdr : Nat) : RxMeta :=
  if hdr = 0 then { checksumOk := false, vlanTag := none, timestamp := none }
  else
    match s.env.metaAnswers with
    | m :: _ => m
    | [] => Config.unansweredMeta s.env.delivered.length

/-- The stack's answer to `Deliver` (45 R336). -/
def State.deliverAnswer (s : State) : DeliverAnswer :=
  match s.env.deliverAnswers with
  | a :: _ => a
  | [] => Config.unansweredDeliver s.env.delivered.length

/-- `deliver_up(c, h, hdr, len)` (43 R237): the packet recorded with its metadata and the stack's answer; the handle
is the stack's whatever it answers. -/
def State.deliverUp (s : State) (h : Handle) (hdr len : Nat) : State :=
  (s.modEnv fun e =>
    { e with metaAnswers := if hdr = 0 then e.metaAnswers else e.metaAnswers.tail,
             deliverAnswers := e.deliverAnswers.tail,
             delivered := e.delivered ++
               [{ handle := h, offset := hdr, length := len - hdr, info := s.rxMeta hdr,
                  answer := s.deliverAnswer }] }).setOwner h .stack

/-- `rx_pending(q)` (43 R240): the slot at the cursor is software-owned; false for an unallocated queue. -/
def rxPending (q : Nat) (k : Bool → Prog) : Prog :=
  Prog.askFlag (fun s => (s.rx q).alloc) fun a =>
  if !a then k false
  else Prog.read32 (fun s => s.desc .rx q (s.rx q).cur) fun w => k (!engineOwned w)

/-- One turn of the loop for a completed slot `i` that holds `h`, after the error test (43 R232, R234 to R238); what
follows gets whether `h` goes upward. -/
def rxReplenish (c q i : Nat) (h : Handle) (bad : Bool) (k : Bool → Prog) : Prog :=
  if bad then rearm q i h (k false)
  else
    acquire c fun r =>
      match r with
      | none => Prog.set (fun s => s.count ctrRxNobuf) <| rearm q i h (k false)
      | some h2 =>
        Prog.set (fun s => (s.setOwner h (.held c)).setRxEntry q i h2) <|
        rearm q i h2 (k true)

/-- The loop of `RX_POLL` (43 R232) with `budget` units left and `work` done. -/
def rxLoop (c q : Nat) : (budget : Nat) → (work : Nat) → (PollEnd → Prog) → Prog
  | 0, work, k => rxPending q fun p => k (.ended (!p) work)
  | budget + 1, work, k =>
    Prog.askNat (fun s => (s.rx q).cur) fun i =>
    slotReady .rx q i fun ready w =>
    if !ready then k (.ended true work)
    else
      Prog.readBarrier <|
      Prog.askRx (fun s => s.rxEntry q i) fun e =>
        match e with
        | .empty => Prog.raise .rxNoHandle <| k (.faulted work)
        | .buf h =>
          Prog.set (fun s => s.setMapped h .none) <|
          Prog.askNat (fun s => s.dev.maxfrm) fun maxfrm =>
          Prog.askNat (fun s => s.hdrLen) fun hdr =>
          let errors := rxErrorCounters (statusOf w) (lengthOf w) maxfrm hdr
          Prog.forEach errors (fun n rest => Prog.set (fun s => s.count n) rest) <|
          rxReplenish c q i h (!errors.isEmpty) fun up =>
          Prog.set (fun s => s.modRx q fun r => { r with cur := nextIndex i r.n }) <|
          if up then
            Prog.set (fun s => s.deliverUp h hdr (lengthOf w)) <|
            rxLoop c q budget (work + 1) k
          else rxLoop c q budget (work + 1) k

/-- `RX_POLL(c, q, budget)` (43 R232). A queue without a ring is outside its precondition (log 13). -/
def rxPoll (c q budget : Nat) (k : PollEnd → Prog) : Prog :=
  Prog.require (fun s => (s.rx q).alloc) .outsideContract <|
  rxLoop c q budget 0 k

/-! ### TX_POLL -/

/-- `tx_inflight[q][i]` (10 R24). -/
def State.txEntry (s : State) (q i : Nat) : TxEntry := (s.tx q).inflight.getD i .empty

/-- The terminating slot of a frame of `nbd` descriptors that starts at `d` (43 R245). -/
def lastSlot (d nbd n : Nat) : Nat := (d + nbd - 1) % n

/-- `tx_pending(q)` (43 R249). -/
def txPending (q : Nat) (k : Bool → Prog) : Prog :=
  Prog.askFlag (fun s => (s.tx q).alloc && decide ((s.tx q).free ≠ (s.tx q).n)) fun inFlight =>
  if !inFlight then k false
  else
    Prog.askNat (fun s => (s.tx q).dirty) fun d =>
    Prog.askTx (fun s => s.txEntry q d) fun e =>
      match e with
      | .head _ nbd =>
        Prog.read32 (fun s => s.desc .tx q (lastSlot d nbd (s.tx q).n)) fun w => k (!engineOwned w)
      | .empty => k true
      | .cont _ => k true

/-- The descriptors of a cleaned frame (43 R247): all but `WRAP` cleared, length 0, in-flight entry `Empty`. -/
def cleanSlots (q d n : Nat) (slots : List Nat) (k : Prog) : Prog :=
  Prog.forEach slots (fun j rest =>
    Prog.read32 (fun s => s.desc .tx q (skipIndex d j n)) fun w =>
    Prog.write32 (fun s => s.desc .tx q (skipIndex d j n)) (cleanedWord w) <|
    Prog.set (fun s => s.setTxEntry q (skipIndex d j n) .empty) rest) k

/-- The packet of the frame at slot `d` unmapped (43 R247), taken out of its `Head` entry and held by the operation, so
that it is in one place at all times and in no slot when it is released (10 R32, 41 R189; log 35). -/
def State.takeFrame (s : State) (c q d : Nat) (h : Handle) : State :=
  ((s.setMapped h .none).setTxEntry q d .empty).setOwner h (.held c)

/-- `clean_frame(c, q, d, h, nbd)` (43 R247, R248). -/
def cleanFrame (c q d : Nat) (h : Handle) (nbd n : Nat) (k : Prog) : Prog :=
  Prog.set (fun s => s.takeFrame c q d h) <|
  release c h <|
  cleanSlots q d n (List.range nbd) <|
  Prog.set (fun s => s.modTx q fun t => { t with dirty := skipIndex d nbd n }) <|
  Prog.lock (.tx q) c <|
  Prog.set (fun s => s.modTx q fun t => { t with free := t.free + nbd }) <|
  Prog.set (fun s => s.modTx q fun t => { t with stopped := t.stopped && decide (t.free = 0) }) <|
  Prog.unlock (.tx q) k

/-- The loop of `TX_POLL` (43 R244) with `budget` units left and `work` done. -/
def txLoop (c q : Nat) : (budget : Nat) → (work : Nat) → (PollEnd → Prog) → Prog
  | 0, work, k => txPending q fun p => k (.ended (!p) work)
  | budget + 1, work, k =>
    Prog.askNat (fun s => (s.tx q).dirty) fun d =>
    Prog.askFlag (fun s => decide ((s.tx q).free = (s.tx q).n)) fun idle =>
    if idle then k (.ended true work)
    else
      Prog.askTx (fun s => s.txEntry q d) fun e =>
        match e with
        | .empty => Prog.raise .txNoHandle <| k (.faulted work)
        | .cont _ => Prog.raise .txNoHandle <| k (.faulted work)
        | .head h nbd =>
          Prog.askNat (fun s => (s.tx q).n) fun n =>
          slotReady .tx q (lastSlot d nbd n) fun ready w =>
          if !ready then k (.ended true work)
          else
            Prog.readBarrier <|
            Prog.forEach (txErrorCounters (statusOf w)) (fun i rest => Prog.set (fun s => s.count i) rest) <|
            cleanFrame c q d h nbd n <|
            txLoop c q budget (work + 1) k

/-- `TX_POLL(c, q, budget)` (43 R244). A queue without a ring is outside its precondition (log 13). -/
def txPoll (c q budget : Nat) (k : PollEnd → Prog) : Prog :=
  Prog.require (fun s => (s.tx q).alloc) .outsideContract <|
  txLoop c q budget 0 k

/-- The results of a poll that is an operation of its own (30 R128): done and work done. -/
def pollResult : PollEnd → Result
  | .ended done work => { code := .ok, rval0 := some (boolResult done), rval1 := some (natResult work) }
  | .faulted work => { code := .errFatal, rval0 := some 0, rval1 := some (natResult work) }

/-- `RX_POLL` as an operation, `ARG0` = budget (30 R128); its precondition asks for `UP` (43 R232; log 13). -/
def progRxPoll (c q : Nat) : Prog :=
  Prog.askDWord (fun s => (s.bank c).arg0) fun a =>
  Prog.askFlag (fun s => s.hasQueue .rx q) fun ok =>
  match low32 a, ok with
  | some budget, true =>
    Prog.require (fun s => decide (s.dev.devState = .up)) .outsideContract <|
    rxPoll c q budget fun e => .ret (pollResult e)
  | _, _ => Prog.done .errBadArg

/-- `TX_POLL` as an operation, `ARG0` = budget (30 R128); its precondition asks for `UP` (43 R244; log 13). -/
def progTxPoll (c q : Nat) : Prog :=
  Prog.askDWord (fun s => (s.bank c).arg0) fun a =>
  Prog.askFlag (fun s => s.hasQueue .tx q) fun ok =>
  match low32 a, ok with
  | some budget, true =>
    Prog.require (fun s => decide (s.dev.devState = .up)) .outsideContract <|
    txPoll c q budget fun e => .ret (pollResult e)
  | _, _ => Prog.done .errBadArg

/-! ### GROUP_POLL -/

/-- The queues of a group, each with the kind of its loop: transmit queues ascending, then receive queues ascending
(43 R256). -/
def groupQueues (g : Group) : List (Kind × Nat) :=
  (bitIndexes g.txq).map (fun q => (Kind.tx, q)) ++ (bitIndexes g.rxq).map (fun q => (Kind.rx, q))

/-- The loop of one queue by kind (43 R230). -/
def pollQueue (c : Nat) (kd : Kind) (q budget : Nat) (k : PollEnd → Prog) : Prog :=
  match kd with
  | .rx => rxPoll c q budget k
  | .tx => txPoll c q budget k

/-- The loops of a list of queues, each with the whole budget (43 R256); the end adds up the work and the `done`s, and
a fault ends it at once (43 R260). -/
def pollQueues (c budget : Nat) : List (Kind × Nat) → (done : Bool) → (total : Nat) → (PollEnd → Prog) → Prog
  | [], done, total, k => k (.ended done total)
  | (kd, q) :: rest, done, total, k =>
    pollQueue c kd q budget fun e =>
      match e with
      | .ended dn wk => pollQueues c budget rest (done && dn) (total + wk) k
      | .faulted wk => k (.faulted (total + wk))

/-- Whether a queue has completed work, by kind (43 R255, `group_pending`). -/
def queuePending (kd : Kind) (q : Nat) (k : Bool → Prog) : Prog :=
  match kd with
  | .rx => rxPending q k
  | .tx => txPending q k

/-- `group_pending(g)` over the group's queues (43 R255, R258). -/
def groupPending : List (Kind × Nat) → (Bool → Prog) → Prog
  | [], k => k false
  | (kd, q) :: rest, k => queuePending kd q fun p => if p then k true else groupPending rest k

/-- The gate of `GROUP_POLL`: the argument tests, then the test and the setting of `poll_running` as one atomic step
(43 R254, R255). -/
def groupPollCheck (g : Nat) (budget : Option Nat) (s : State) : Code :=
  if !s.hasGroup g || budget.isNone then .errBadArg
  else if s.dev.devState ≠ .up ∨ (s.grp g).pollScheduled = false ∨ (s.grp g).pollRunning = true then .errNotPending
  else .ok

/-- `GROUP_POLL(c, g, budget)`, `ARG0` = budget (43 R255 to R260). -/
def progGroupPoll (c g : Nat) : Prog :=
  Prog.askDWord (fun s => (s.bank c).arg0) fun a =>
  Prog.check (groupPollCheck g (pollBudget a)) (fun s => s.modGrp g fun x => { x with pollRunning := true }) fun code =>
  if code ≠ .ok then Prog.done code
  else
    Prog.set (fun s => s.modGrp g fun x => { x with ievent := x.ievent &&& ~~~rtx }) <|
    Prog.askQueues (fun s => groupQueues (s.grp g)) fun queues =>
    pollQueues c ((pollBudget a).getD 0) queues true 0 fun e =>
      match e with
      | .faulted total =>
        Prog.set (fun s => s.modGrp g fun x => { x with pollScheduled := false }) <|
        Prog.set (fun s => s.modGrp g fun x => { x with pollRunning := false }) <|
        .ret { code := .errFatal, rval0 := some 0, rval1 := some (natResult total) }
      | .ended false total =>
        Prog.set (fun s => s.modGrp g fun x => { x with pollRunning := false }) <|
        .ret { code := .ok, rval0 := some 0, rval1 := some (natResult total) }
      | .ended true total =>
        Prog.set (fun s => s.modGrp g fun x => { x with pollScheduled := false }) <|
        Prog.set (fun s => s.modGrp g fun x => { x with imask := x.imask ||| rtx }) <|
        groupPending queues fun pending =>
        let finished : Prog :=
          Prog.set (fun s => s.modGrp g fun x => { x with pollRunning := false }) <|
          .ret { code := .ok, rval0 := some 1, rval1 := some (natResult total) }
        if pending then
          trySchedule g fun won =>
            if won then Prog.set (fun s => s.modGrp g fun x => { x with imask := x.imask &&& ~~~rtx }) finished
            else finished
        else finished

end Sys2Proof.Machine
end

