-- ==== Sys2Proof/Machine/Group.lean ====
section
/-! DEFINITION. `NOP`, the group mask, the coalescing parameters, the interrupt handler and the statistics snapshot
(spec 44 R270 to R276, R311; 60 R371, R372). -/

namespace Sys2Proof.Machine

/-- `NOP(c)` (44 R270). -/
def progNop : Prog := Prog.done .ok

/-- `IMASK[g] <- v` (44 R271). -/
def State.setImask (s : State) (g : Nat) (v : BitVec 2) : State := s.modGrp g fun x => { x with imask := v }

/-- `MASK_ALL(c, g)` (44 R272). -/
def progMaskAll (g : Nat) : Prog :=
  Prog.askFlag (fun s => s.hasGroup g) fun ok =>
  if !ok then Prog.done .errBadArg
  else
    Prog.set (fun s => s.setImask g 0) <|
    Prog.done .ok

/-- `UNMASK_DEFAULT(c, g)` (44 R273). -/
def progUnmaskDefault (g : Nat) : Prog :=
  Prog.askFlag (fun s => s.hasGroup g) fun ok =>
  if !ok then Prog.done .errBadArg
  else
    Prog.set (fun s => s.setImask g imaskDefault) <|
    Prog.done .ok

/-- `SET_COALESCE(c, K, q, max_frames, max_delay)`, `ARG0` and `ARG1` (44 R276): under the queue's lock the pair is
written and evaluated in one step, since the coalescer takes no lock (60 R368; log 30). -/
def progSetCoalesce (c : Nat) (kd : Kind) (q : Nat) : Prog :=
  Prog.askDWord (fun s => (s.bank c).arg0) fun frames =>
  Prog.askDWord (fun s => (s.bank c).arg1) fun delay =>
  Prog.askFlag (fun s => s.hasQueue kd q) fun ok =>
  match ok, coalesceOperand frames delay with
  | true, some v =>
    Prog.lock (queueLock kd q) c <|
    Prog.set (fun s => (s.setIc kd q v).coalesceEval kd q) <|
    Prog.unlock (queueLock kd q) <|
    Prog.done .ok
  | _, _ => Prog.done .errBadArg

/-- The tests of the `IRQ` operation, in order (60 R371, R372). -/
def irqCheck (g : Nat) (s : State) : Code :=
  if !s.hasGroup g then .errBadArg
  else if s.dev.devState ≠ .up ∨ s.line g = false then .errNotPending
  else .ok

/-- `IRQ(c, g)`, the interrupt handler (60 R372): it masks, then tries to schedule the poll. -/
def progIrq (g : Nat) : Prog :=
  Prog.check (irqCheck g) (fun s => s) fun code =>
  if code ≠ .ok then Prog.done code
  else
    Prog.set (fun s => s.setImask g ((s.grp g).imask &&& ~~~rtx)) <|
    trySchedule g fun won => .ret { code := .ok, rval0 := some (boolResult won), rval1 := none }

/-- `READ_STATS(c)` (44 R311). -/
def progReadStats : Prog :=
  Prog.set (fun s => s.snapshot) <|
  Prog.done .ok

end Sys2Proof.Machine
end

