-- ==== Sys2Proof/Machine/Controller.lean ====
section
/-! DEFINITION. The device controller (spec 44): `START`, `HALT`, `CHANGE_MTU`, `LINK_CHANGE`, `RESET_TASK`,
`TX_TIMEOUT`. -/

namespace Sys2Proof.Machine

/-! ### Sizes and configuration -/

/-- `rx_buffer_size` as the MTU in force gives it (44 R296). -/
def State.derivedBufferSize (s : State) : Nat := bufferSizeOf s.params s.dev.mtu s.hdrLen

/-- `set_sizes()` (44 R296, R297). -/
def setSizes (k : Prog) : Prog :=
  Prog.set (fun s => s.modDev fun d => { d with maxfrm := maxFrameOf s.params d.mtu }) <|
  Prog.askFlag (fun s => decide (s.derivedBufferSize ≠ s.dev.rxBufSize) && s.pool.init) fun purge =>
  (if purge then poolPurge else fun rest => rest) <|
  Prog.set (fun s => s.modDev fun d => { d with rxBufSize := s.derivedBufferSize }) k

/-- The bitmaps of a kind partition the queues: each queue below the count in exactly one group, no other bit set
(10 R37, 44 R281). -/
def State.partition (s : State) (kd : Kind) : Bool :=
  (List.range 8).all fun q => (s.groupsOf kd q).length == (if q < s.numQueues kd then 1 else 0)

/-- `config_ok()` (44 R281). -/
def State.configOk (s : State) : Bool :=
  decide (1 ≤ s.rxCountField ∧ s.rxCountField ≤ 8) && decide (1 ≤ s.txCountField ∧ s.txCountField ≤ 8) &&
  decide (1 ≤ s.groupCountField ∧ s.groupCountField ≤ 8) &&
  decide (s.groupCountField ≤ s.rxCountField + s.txCountField) &&
  ((List.range s.rxCountField).all fun q => legalRingSize (s.rx q).size.toNat) &&
  ((List.range s.txCountField).all fun q => legalRingSize (s.tx q).size.toNat) &&
  s.partition .rx && s.partition .tx &&
  (List.range s.groupCountField).all fun g => decide ((s.grp g).rxq ≠ 0 ∨ (s.grp g).txq ≠ 0)

/-! ### START -/

/-- The handles of an RX in-flight array with their slots, in order. -/
def rxHandles (es : List RxEntry) : List (Handle × Nat) :=
  es.zipIdx.filterMap fun e =>
    match e.1 with
    | .buf h => some (h, e.2)
    | .empty => none

/-- The handles of a TX in-flight array with their slots, in order: the `Head` entries (10 R25). -/
def txHandles (es : List TxEntry) : List (Handle × Nat) :=
  es.zipIdx.filterMap fun e =>
    match e.1 with
    | .head h _ => some (h, e.2)
    | .empty => none
    | .cont _ => none

/-- `Free(h)` and `rx_inflight[q][i] <- Empty` in one event, as 45 R333 asks that a handle be in no slot when it is freed
(44 R283, R293; log 35). -/
def State.freeRxEntry (s : State) (q i : Nat) (h : Handle) : State :=
  (s.modRx q fun r => { r with inflight := r.inflight.set i .empty }).freeBuf h

/-- `Free(h)` of the packet in entry `i` of TX queue `q`, as `freeRxEntry` (44 R293; log 35). -/
def State.freeTxEntry (s : State) (q i : Nat) (h : Handle) : State := (s.setTxEntry q i .empty).freeBuf h

/-- Every buffer of RX queue `q` unmapped and freed, its in-flight array emptied (44 R283, R293). -/
def freeRxBuffers (q : Nat) (k : Prog) : Prog :=
  Prog.askRxs (fun s => (s.rx q).inflight) fun es =>
  Prog.forEach (rxHandles es) (fun e rest =>
    Prog.set (fun s => s.setMapped e.1 .none) <|
    Prog.set (fun s => s.freeRxEntry q e.2 e.1) rest) k

/-- `unwind()` (44 R283). What its pseudocode does not undo stays as `START` left it (log 39). -/
def unwind (k : Prog) : Prog :=
  Prog.askNat (fun s => s.numGroups) fun ng =>
  Prog.forEach (List.range ng) (fun g rest =>
    Prog.set (fun s => s.modGrp g fun x => { x with irqRegistered := false }) rest) <|
  Prog.askNat (fun s => s.numRxq) fun nr =>
  Prog.forEach (List.range nr) freeRxBuffers <|
  Prog.askNat (fun s => s.numTxq) fun nt =>
  Prog.forEach (List.range nt) (ringFree .tx) <|
  Prog.forEach (List.range nr) (ringFree .rx) <|
  Prog.forEach (List.range ng) (fun g rest => Prog.set (fun s => s.setImask g 0) rest) k

/-- Step 1 of `START` for one kind (44 R280): a ring for every queue below the count. -/
def startRings (kd : Kind) (fail : Prog) : List Nat → Prog → Prog
  | [], k => k
  | q :: rest, k =>
    Prog.askNat (fun s => match kd with
      | .rx => (s.rx q).size.toNat
      | .tx => (s.tx q).size.toNat) fun size =>
    ringInit kd q size fun ok => if ok then startRings kd fail rest k else fail

/-- Step 2 of `START` for one slot (44 R280): a buffer acquired, entered, mapped, and the slot armed. -/
def startSlot (c q i : Nat) (fail : Prog) (k : Prog) : Prog :=
  acquire c fun r =>
    match r with
    | none => fail
    | some h => Prog.set (fun s => s.setRxEntry q i h) <| rearm q i h k

/-- Step 2 of `START` for one queue (44 R280). -/
def startBuffers (c : Nat) (fail : Prog) (q : Nat) (k : Prog) : Prog :=
  Prog.askNat (fun s => (s.rx q).n) fun n =>
  Prog.forEach (List.range n) (fun i rest => startSlot c q i fail rest) k

/-- Step 4 of `START`: each group's events and gate cleared, in one event (log 40), its line registered (44 R280). -/
def startGroups (fail : Prog) : List Nat → Prog → Prog
  | [], k => k
  | g :: rest, k =>
    Prog.set (fun s => s.modGrp g fun x =>
      { x with ievent := 0, pollScheduled := false, pollRunning := false }) <|
    Prog.irqRegister g fun ok => if ok then startGroups fail rest k else fail

/-- Step 3 of `START` for a TX ring (44 R280): base, size and cursor into the engine, in one event (log 40). -/
def State.programTx (s : State) (q : Nat) : State :=
  s.modEtx q fun _ => { base := (s.tx q).base, n := (s.tx q).n, cur := 0, idle := true }

/-- Step 3 of `START` for an RX ring (44 R280), in one event (log 40). -/
def State.programRx (s : State) (q : Nat) : State :=
  s.modErx q fun _ => { base := (s.rx q).base, n := (s.rx q).n, cur := 0 }

/-- The body of `START` from `config_ok()` on (44 R280, R281, R285), shared with `CHANGE_MTU` and `RESET_TASK`; what
follows gets the code. -/
def startBody (c : Nat) (k : Code → Prog) : Prog :=
  Prog.askFlag (fun s => s.configOk) fun ok =>
  if !ok then k .errBadConfig
  else
    Prog.askFlag (fun s => s.zeroCopy) fun zc =>
    if zc then k .errUnsupported
    else
      setSizes <|
      Prog.askNat (fun s => s.numTxq) fun nt =>
      Prog.askNat (fun s => s.numRxq) fun nr =>
      Prog.askNat (fun s => s.numGroups) fun ng =>
      startRings .tx (unwind (k .errOutOfMemory)) (List.range nt) <|
      startRings .rx (unwind (k .errOutOfMemory)) (List.range nr) <|
      Prog.forEach (List.range nr) (startBuffers c (unwind (k .errOutOfMemory))) <|
      Prog.forEach (List.range nt) (fun q rest => Prog.set (fun s => s.programTx q) rest) <|
      Prog.forEach (List.range nr) (fun q rest => Prog.set (fun s => s.programRx q) rest) <|
      startGroups (unwind (k .errIrq)) (List.range ng) <|
      Prog.forEach (List.range ng) (fun g rest => Prog.set (fun s => s.setImask g imaskDefault) rest) <|
      Prog.set (fun s => s.modDev fun d => { d with devevent := 0 }) <|
      Prog.writeBarrier <|
      Prog.set (fun s => s.writeDmactrl 2) <|
      Prog.set (fun s => s.modDev fun d => { d with macctrl := 3 }) <|
      Prog.set (fun s => s.modDev fun d => { d with resetPending := false }) <|
      Prog.set (fun s => s.modDev fun d => { d with devState := .up }) <|
      k .ok

/-- `START(c)` (44 R280). -/
def progStart (c : Nat) : Prog :=
  enter <|
  Prog.askFlag (fun s => decide (s.dev.devState ≠ .down) || !s.pool.init) fun bad =>
  if bad then leave .errState else startBody c leave

/-! ### HALT -/

/-- `halt_begin()` in the order of 44 R288. A poll that ends done during the wait sets its group's mask; the return of
the gate to idle after the wait clears all its bits (43 R261, last row), in the same event (log 37). -/
def haltBegin (k : Prog) : Prog :=
  Prog.set (fun s => s.modDev fun d => { d with devState := .stopping }) <|
  Prog.askNat (fun s => s.numGroups) fun ng =>
  Prog.askNat (fun s => s.numTxq) fun nt =>
  Prog.forEach (List.range ng) (fun g rest => Prog.set (fun s => s.setImask g 0) rest) <|
  Prog.await (fun s => (List.range ng).all fun g => !(s.grp g).pollRunning) <|
  Prog.await (fun s => (List.range nt).all fun q => decide ((s.tx q).phase = .readyForWork)) <|
  Prog.forEach (List.range ng) (fun g rest =>
    Prog.set (fun s => s.modGrp g fun x => { x with pollScheduled := false, imask := 0 }) rest) <|
  Prog.set (fun s => s.writeDmactrl (s.dev.dmactrl ||| 1)) k

/-- The first condition of `halt_wait` (44 R290): acknowledged, or the timer has expired. -/
def State.stopAnswered (s : State) : Bool := s.dev.devevent.getLsbD 0 || s.dev.haltTimerExpired

/-- Both idle bits (44 R290). -/
def State.bothIdle (s : State) : Bool := decide (s.dev.idlestat = 3)

/-- The end of `halt_wait` (44 R290): a stop that was not confirmed is recorded, and the teardown goes on. -/
def haltJudge (confirmed : Bool) (k : Prog) : Prog :=
  Prog.set (fun s => s.modDev fun d => { d with haltWaiting := false }) <|
  if confirmed then k else Prog.raise .stopTimeout k

/-- `halt_wait()` (44 R290, R292): one timer, started here, bounds both waits. -/
def haltWait (k : Prog) : Prog :=
  Prog.set (fun s => s.modDev fun d => { d with haltTimerExpired := false, haltWaiting := true }) <|
  Prog.await (fun s => s.stopAnswered) <|
  Prog.askFlag (fun s => s.stopAckUnreliable) fun unreliable =>
  if unreliable then
    Prog.await (fun s => s.bothIdle || s.dev.haltTimerExpired) <|
    Prog.askFlag (fun s => s.bothIdle) fun confirmed => haltJudge confirmed k
  else
    Prog.askFlag (fun s => s.dev.devevent.getLsbD 0) fun confirmed => haltJudge confirmed k

/-- The packets of TX queue `q` unmapped and freed, its in-flight array emptied (44 R293). -/
def freeTxFrames (q : Nat) (k : Prog) : Prog :=
  Prog.askTxs (fun s => (s.tx q).inflight) fun es =>
  Prog.forEach (txHandles es) (fun e rest =>
    Prog.set (fun s => s.setMapped e.1 .none) <|
    Prog.set (fun s => s.freeTxEntry q e.2 e.1) rest) <|
  Prog.set (fun s => s.clearInflight .tx q (s.tx q).n) k

/-- `halt_finish` for one TX queue (44 R293). -/
def finishTxQueue (q : Nat) (k : Prog) : Prog :=
  Prog.askFlag (fun s => (s.tx q).alloc) fun a =>
  if a then
    freeTxFrames q <|
    Prog.set (fun s => s.modTx q fun t => { t with stopped := false }) <|
    ringFree .tx q k
  else k

/-- `halt_finish` for one RX queue (44 R293). -/
def finishRxQueue (q : Nat) (k : Prog) : Prog :=
  Prog.askFlag (fun s => (s.rx q).alloc) fun a =>
  if a then freeRxBuffers q <| ringFree .rx q k else k

/-- `halt_finish(c)` (44 R293). -/
def haltFinish (k : Prog) : Prog :=
  Prog.set (fun s => s.modDev fun d => { d with macctrl := 0 }) <|
  Prog.set (fun s => s.writeDmactrl 0) <|
  Prog.set (fun s => s.modDev fun d => { d with devevent := 0 }) <|
  Prog.askNat (fun s => s.numGroups) fun ng =>
  Prog.forEach (List.range ng) (fun g rest =>
    Prog.set (fun s => s.modGrp g fun x => { x with irqRegistered := false }) <|
    Prog.set (fun s => s.modGrp g fun x => { x with ievent := 0 }) rest) <|
  Prog.askNat (fun s => s.numTxq) fun nt =>
  Prog.forEach (List.range nt) finishTxQueue <|
  Prog.askNat (fun s => s.numRxq) fun nr =>
  Prog.forEach (List.range nr) finishRxQueue <|
  Prog.set (fun s => s.modDev fun d => { d with devState := .down }) k

/-- Begin, wait, finish (44 R287). -/
def haltAll (k : Prog) : Prog := haltBegin <| haltWait <| haltFinish k

/-- `HALT(c)` (44 R287, R294). -/
def progHalt : Prog :=
  enter <|
  Prog.askFlag (fun s => decide (s.dev.devState = .down)) fun down =>
  if down then leave .ok else haltAll (leave .ok)

/-! ### CHANGE_MTU, RESET_TASK -/

/-- The restart that ends `CHANGE_MTU` and `RESET_TASK` (44 R299, R304): a failure is recorded and its code
returned. -/
def restart (c : Nat) : Prog :=
  startBody c fun code => if code = .ok then leave .ok else Prog.raise .restartFailed <| leave code

/-- `CHANGE_MTU(c, new_mtu)`, `ARG0` (44 R295, R299). -/
def progChangeMtu (c : Nat) : Prog :=
  Prog.askDWord (fun s => (s.bank c).arg0) fun a =>
  match low32 a with
  | none => Prog.done .errBadArg
  | some mtu =>
    Prog.askFlag (fun s => decide (mtu < s.params.mtuMin ∨ s.params.mtuMax < mtu)) fun bad =>
    if bad then Prog.done .errInvalidMtu
    else
      enter <|
      Prog.askFlag (fun s => decide (s.dev.devState = .up)) fun wasUp =>
      (if wasUp then haltAll else fun rest => rest) <|
      Prog.set (fun s => s.modDev fun d => { d with mtu := mtu }) <|
      setSizes <|
      if wasUp then restart c else leave .ok

/-- `RESET_TASK(c)` (44 R303, R304). -/
def progResetTask (c : Nat) : Prog :=
  Prog.testAndSet (fun s => s.dev.resetPending && !s.dev.ctlBusy)
    (fun s => s.modDev fun d => { d with ctlBusy := true }) fun entered =>
  if !entered then Prog.done .errNotPending
  else
    Prog.set (fun s => s.modDev fun d => { d with resetPending := false }) <|
    Prog.askFlag (fun s => decide (s.dev.devState = .down)) fun down =>
    if down then leave .ok else haltAll (restart c)

/-! ### LINK_CHANGE, TX_TIMEOUT -/

/-- `LINKCFG` with link up (44 R300). -/
def linkcfgUp (speed : BitVec 16) (full : Bool) : BitVec 32 :=
  (speed.setWidth 32 <<< 16) ||| (if full then 2 else 0) ||| 1

/-- The write of `link` and `LINKCFG` (44 R300), in one event (log 40). -/
def State.changeLink (s : State) (up full : Bool) (speed : BitVec 16) : State :=
  s.modDev fun d =>
    if up then { d with link := .up speed full, linkcfg := linkcfgUp speed full }
    else { d with link := .down, linkcfg := d.linkcfg &&& ~~~1 }

/-- `LINK_CHANGE(c, up, speed, duplex)`, `ARG0` = speed (44 R300): under every `tx_lock`, taken in ascending order. -/
def progLinkChange (c : Nat) (up full : Bool) : Prog :=
  Prog.askDWord (fun s => (s.bank c).arg0) fun a =>
  match low16 a with
  | none => Prog.done .errBadArg
  | some speed =>
    Prog.askNat (fun s => s.numTxq) fun nt =>
    Prog.forEach (List.range nt) (fun q rest => Prog.lock (.tx q) c rest) <|
    Prog.set (fun s => s.changeLink up full (BitVec.ofNat 16 speed)) <|
    Prog.forEach (List.range nt).reverse (fun q rest => Prog.unlock (.tx q) rest) <|
    Prog.done .ok

/-- The tests of `TX_TIMEOUT`, in order (44 R307, R308). -/
def txTimeoutCheck (q : Nat) (s : State) : Code :=
  if !s.hasQueue .tx q then .errBadArg
  else if s.dev.devState ≠ .up ∨ (s.tx q).free = (s.tx q).n then .errNotPending
  else .ok

/-- `TX_TIMEOUT(c, q)` (44 R308): the fault is recorded with the reset request. -/
def progTxTimeout (q : Nat) : Prog :=
  Prog.check (txTimeoutCheck q) (fun s => s.recordFault .txTimeout) fun code => Prog.done code

end Sys2Proof.Machine
end

