-- ==== Sys2Proof/Machine/Run.lean ====
section
/-! DEFINITION. Running operations (spec 20 R108, R110; 30 R129, R138; 45 R343): the program of every operation, the
issue of a command word, the moves of all agents, an operation in progress event by event, and an operation run to its
end. -/

namespace Sys2Proof.Machine

/-- The program of each operation (30 R140). -/
def progOf : Instr → Prog
  | .nop _ => progNop
  | .poolInit _ => progPoolInit
  | .poolTeardown _ => progPoolTeardown
  | .acquire c => progAcquire c.toNat
  | .release c => progRelease c.toNat
  | .submit c q => progSubmit c.toNat q.toNat
  | .submitSeg c q => progSubmitSeg c.toNat q.toNat
  | .irq _ g => progIrq g.toNat
  | .groupPoll c g => progGroupPoll c.toNat g.toNat
  | .maskAll _ g => progMaskAll g.toNat
  | .unmaskDefault _ g => progUnmaskDefault g.toNat
  | .setCoalesce c k q => progSetCoalesce c.toNat k q.toNat
  | .start c => progStart c.toNat
  | .halt _ => progHalt
  | .changeMtu c => progChangeMtu c.toNat
  | .linkChange c up full => progLinkChange c.toNat up full
  | .resetTask c => progResetTask c.toNat
  | .txTimeout _ q => progTxTimeout q.toNat
  | .readStats _ => progReadStats
  | .ringInit c k q => progRingInit c.toNat k q.toNat
  | .armRx c q => progArmRx c.toNat q.toNat
  | .slotReady c k q => progSlotReady c.toNat k q.toNat
  | .ringNext c k q => progRingNext c.toNat k q.toNat
  | .rxPoll c q => progRxPoll c.toNat q.toNat
  | .txPoll c q => progTxPoll c.toNat q.toNat

/-! ### The issue of a command word (30 R138, R141, R142) -/

/-- What a write of `CMD[c]` comes to. -/
inductive Issue where
  /-- the bank is busy: no effect at all -/
  | dropped
  /-- the operation ended at once, with a code -/
  | ended (s : State)
  /-- the context runs the operation -/
  | run (i : Instr) (s : State)

/-- `STATUS[c]` of an operation that ends at once (30 R138, R141). -/
def State.endAtOnce (s : State) (c : Nat) (code : Code) : State := s.modBank c fun b => { b with status := code }

/-- A write of the word `w` to `CMD[c]` (30 R138): dropped while busy; `ERR_BAD_ARG` where `ctx` is not the bank or no
context; `ERR_RESERVED_OP` where no row matches (R141) or the row is a micro-operation's (R142); else `busy[c]` is set
and the context runs the operation. -/
def issue (c : Nat) (w : Word) (s : State) : Issue :=
  let t := s.modBank c fun b => { b with cmd := w }
  if numBanks ≤ c ∨ (s.bank c).busy = true then .dropped
  else if (commandFields w).ctx.toNat ≠ c ∨ s.params.numCpus ≤ (commandFields w).ctx.toNat then
    .ended (t.endAtOnce c .errBadArg)
  else
    match decodeWord w with
    | .error _ => .ended (t.endAtOnce c .errReservedOp)
    | .ok i =>
      if i.isMicro then .ended (t.endAtOnce c .errReservedOp)
      else .run i (t.modBank c fun b => { b with busy := true })

/-- The bank and word of a host write to a command register (30 R131). -/
def commandWrite (offset : BitVec 12) (size : Nat) (v : Word) : Option (Nat × Word) :=
  if registerAccess offset size = true ∧ offset.toNat < 0x400 ∧ offset.toNat % 0x40 = 0 then
    some (offset.toNat / 0x40, v)
  else none

/-! ### An operation in progress -/

/-- The rest of a program after the answers its events have got. -/
def Prog.replay : Prog → List Resp → Prog
  | p, [] => p
  | .ret r, _ :: _ => .ret r
  | .ev _ k, r :: rs => (k r).replay rs

/-- The operation of bank `c` put in progress, with the answers its events have got so far. -/
def State.setOp (s : State) (c : Nat) (o : InProgress) : State :=
  s.modBank c fun b => { b with busy := true, op := some o }

/-- A command word whose operation stays in progress. -/
def launch (c : Nat) (w : Word) (s : State) : State :=
  match issue c w s with
  | .dropped => s
  | .ended t => t
  | .run i t => t.setOp c ⟨i, []⟩

/-- The next event of the operation in progress on context `c`, or its end; a wait leaves everything as it is. -/
def advance (c : Nat) (s : State) : MoveOutcome :=
  match (s.bank c).op with
  | none => .next s
  | some o =>
    match (progOf o.instr).replay o.log with
    | .ret r => .next (s.finish c r)
    | .ev f _ =>
      match f s with
      | .ok t r => .next (t.setOp c ⟨o.instr, o.log ++ [r]⟩)
      | .wait => .next s
      | .fault x => .fault x
      | .refuse x => .refused x

/-! ### Every move -/

/-- One move of an agent (45 R343); a command word written here leaves its operation in progress. -/
def performMove : Move → State → MoveOutcome
  | .hostWrite offset size v, s =>
    match commandWrite offset size v with
    | some (c, w) => .next (launch c w s)
    | none => .next (s.writeRegister offset size v)
  | .hostRead offset size, s => .next (s.modEnv fun e => { e with hostData := s.readRegister offset size })
  | .launch c w, s => .next (launch c w s)
  | .advance c, s => advance c s
  | .rxFill q errs bytes, s => dmaRxFill q errs bytes s
  | .txConsume q errs, s => dmaTxConsume q errs s
  | .pollTick q, s => .next (dmaPollTick q s)
  | .stopAck gsc, s => .next (dmaStopAck gsc s)
  | .idleUpdate v, s => .next (dmaIdleUpdate v s)
  | .coalesceTick, s => .next (coalesceTick s)
  | .haltTimeout, s => .next (haltTimeout s)
  | .describe h info, s => .next (describe h info s)
  | .stackFree h, s => .next (stackFree h s)
  | .stackWrite h offset bytes, s => .next (stackWrite h offset bytes s)

/-! ### An operation run to its end -/

/-- How an event came out when the moves of the agenda may happen before it. -/
inductive Settled where
  | ok (s : State) (r : Resp)
  | waits (s : State)
  | fault (f : Fault)
  | refuse (r : Refusal)

/-- An event that has to wait: the moves of the agenda happen, one after another, until it can happen (20 R104, 44
R288, R290). -/
def settle (f : State → Event) : List Move → State → Settled
  | [], s => .waits s
  | m :: ms, s =>
    match performMove m (s.setAgenda ms) with
    | .fault x => .fault x
    | .refused x => .refuse x
    | .next t =>
      match f t with
      | .ok u r => .ok u r
      | .wait => settle f ms t
      | .fault x => .fault x
      | .refuse x => .refuse x

/-- An event, at once where it can happen. -/
def occur (f : State → Event) (s : State) : Settled :=
  match f s with
  | .ok t r => .ok t r
  | .wait => settle f s.agenda s
  | .fault x => .fault x
  | .refuse x => .refuse x

/-- How a run of a program came out. -/
inductive RunEnd where
  | done (s : State) (r : Result)
  | waits (s : State) (log : List Resp)
  | fault (f : Fault)
  | refuse (r : Refusal)

/-- A program run from a state, its events in order (20 R94; log 1); `log` holds the answers so far. -/
def Prog.run : Prog → State → List Resp → RunEnd
  | .ret r, s, _ => .done s r
  | .ev f k, s, log =>
    match occur f s with
    | .ok t r => (k r).run t (log ++ [r])
    | .waits t => .waits t log
    | .fault x => .fault x
    | .refuse x => .refuse x

/-- An operation run by its context: to its end (30 R129), or, where it waits and no agent has a move left, to the
wait, in progress (log 23). -/
def execute (i : Instr) (p : Prog) (s : State) : Host.Outcome State Fault Refusal :=
  match p.run s [] with
  | .done t r => .next (t.finish i.ctx.toNat r)
  | .waits t log => .next (t.setOp i.ctx.toNat ⟨i, log⟩)
  | .fault x => .fault x
  | .refuse x => .refused x

end Sys2Proof.Machine
end

