-- ==== Sys2Proof/Machine/Meanings.lean ====
section
/-! DEFINITION. The meaning of every operation (spec 30 R140): its context runs its program, from the file of its
family, to its end. -/

namespace Sys2Proof.Machine

/-- `NOP`: no effect but the result (44 R270). -/
def execNop (ctx : BitVec 8) (s : State) : Host.Outcome State Fault Refusal :=
  execute (.nop ctx) progNop s

/-- `POOL_INIT` (41 R181). -/
def execPoolInit (ctx : BitVec 8) (s : State) : Host.Outcome State Fault Refusal :=
  execute (.poolInit ctx) progPoolInit s

/-- `POOL_TEARDOWN` (41 R182). -/
def execPoolTeardown (ctx : BitVec 8) (s : State) : Host.Outcome State Fault Refusal :=
  execute (.poolTeardown ctx) progPoolTeardown s

/-- `ACQUIRE` (41 R185 to R187). -/
def execAcquire (ctx : BitVec 8) (s : State) : Host.Outcome State Fault Refusal :=
  execute (.acquire ctx) (progAcquire ctx.toNat) s

/-- `RELEASE` (41 R189, R190). -/
def execRelease (ctx : BitVec 8) (s : State) : Host.Outcome State Fault Refusal :=
  execute (.release ctx) (progRelease ctx.toNat) s

/-- `SUBMIT` (42 R203 to R212). -/
def execSubmit (ctx : BitVec 8) (q : BitVec 8) (s : State) : Host.Outcome State Fault Refusal :=
  execute (.submit ctx q) (progSubmit ctx.toNat q.toNat) s

/-- `SUBMIT_SEG` (42 R215 to R217). -/
def execSubmitSeg (ctx : BitVec 8) (q : BitVec 8) (s : State) : Host.Outcome State Fault Refusal :=
  execute (.submitSeg ctx q) (progSubmitSeg ctx.toNat q.toNat) s

/-- `IRQ` (60 R371, R372). -/
def execIrq (ctx : BitVec 8) (g : BitVec 8) (s : State) : Host.Outcome State Fault Refusal :=
  execute (.irq ctx g) (progIrq g.toNat) s

/-- `GROUP_POLL` (43 R254 to R260). -/
def execGroupPoll (ctx : BitVec 8) (g : BitVec 8) (s : State) : Host.Outcome State Fault Refusal :=
  execute (.groupPoll ctx g) (progGroupPoll ctx.toNat g.toNat) s

/-- `MASK_ALL` (44 R272). -/
def execMaskAll (ctx : BitVec 8) (g : BitVec 8) (s : State) : Host.Outcome State Fault Refusal :=
  execute (.maskAll ctx g) (progMaskAll g.toNat) s

/-- `UNMASK_DEFAULT` (44 R273). -/
def execUnmaskDefault (ctx : BitVec 8) (g : BitVec 8) (s : State) : Host.Outcome State Fault Refusal :=
  execute (.unmaskDefault ctx g) (progUnmaskDefault g.toNat) s

/-- `SET_COALESCE` (44 R276). -/
def execSetCoalesce (ctx : BitVec 8) (k : Kind) (q : BitVec 8) (s : State) : Host.Outcome State Fault Refusal :=
  execute (.setCoalesce ctx k q) (progSetCoalesce ctx.toNat k q.toNat) s

/-- `START` (44 R280 to R285). -/
def execStart (ctx : BitVec 8) (s : State) : Host.Outcome State Fault Refusal :=
  execute (.start ctx) (progStart ctx.toNat) s

/-- `HALT` (44 R287 to R294). -/
def execHalt (ctx : BitVec 8) (s : State) : Host.Outcome State Fault Refusal :=
  execute (.halt ctx) progHalt s

/-- `CHANGE_MTU` (44 R295 to R299). -/
def execChangeMtu (ctx : BitVec 8) (s : State) : Host.Outcome State Fault Refusal :=
  execute (.changeMtu ctx) (progChangeMtu ctx.toNat) s

/-- `LINK_CHANGE` (44 R300). -/
def execLinkChange (ctx : BitVec 8) (up : Bool) (full : Bool) (s : State) : Host.Outcome State Fault Refusal :=
  execute (.linkChange ctx up full) (progLinkChange ctx.toNat up full) s

/-- `RESET_TASK` (44 R303, R304). -/
def execResetTask (ctx : BitVec 8) (s : State) : Host.Outcome State Fault Refusal :=
  execute (.resetTask ctx) (progResetTask ctx.toNat) s

/-- `TX_TIMEOUT` (44 R307, R308). -/
def execTxTimeout (ctx : BitVec 8) (q : BitVec 8) (s : State) : Host.Outcome State Fault Refusal :=
  execute (.txTimeout ctx q) (progTxTimeout q.toNat) s

/-- `READ_STATS` (44 R311). -/
def execReadStats (ctx : BitVec 8) (s : State) : Host.Outcome State Fault Refusal :=
  execute (.readStats ctx) progReadStats s

/-- `RING_INIT`, the micro-operation itself (40 R162, R164; log 12). -/
def execRingInit (ctx : BitVec 8) (k : Kind) (q : BitVec 8) (s : State) : Host.Outcome State Fault Refusal :=
  execute (.ringInit ctx k q) (progRingInit ctx.toNat k q.toNat) s

/-- `ARM_RX`, the micro-operation itself (40 R166; log 12). -/
def execArmRx (ctx : BitVec 8) (q : BitVec 8) (s : State) : Host.Outcome State Fault Refusal :=
  execute (.armRx ctx q) (progArmRx ctx.toNat q.toNat) s

/-- `SLOT_READY`, the micro-operation itself (40 R169; log 12). -/
def execSlotReady (ctx : BitVec 8) (k : Kind) (q : BitVec 8) (s : State) : Host.Outcome State Fault Refusal :=
  execute (.slotReady ctx k q) (progSlotReady ctx.toNat k q.toNat) s

/-- `RING_NEXT`, the micro-operation itself (40 R172; log 12). -/
def execRingNext (ctx : BitVec 8) (k : Kind) (q : BitVec 8) (s : State) : Host.Outcome State Fault Refusal :=
  execute (.ringNext ctx k q) (progRingNext ctx.toNat k q.toNat) s

/-- `RX_POLL`, the micro-operation itself (43 R232 to R241; log 12). -/
def execRxPoll (ctx : BitVec 8) (q : BitVec 8) (s : State) : Host.Outcome State Fault Refusal :=
  execute (.rxPoll ctx q) (progRxPoll ctx.toNat q.toNat) s

/-- `TX_POLL`, the micro-operation itself (43 R244 to R251; log 12). -/
def execTxPoll (ctx : BitVec 8) (q : BitVec 8) (s : State) : Host.Outcome State Fault Refusal :=
  execute (.txPoll ctx q) (progTxPoll ctx.toNat q.toNat) s

end Sys2Proof.Machine
end

