-- ==== Sys2Proof/Machine/Dispatch.lean ====
section
/-! DEFINITION. The dispatch: one arm per operation of the opcode table (spec 30 R140). -/

namespace Sys2Proof.Machine

def exec (i : Instr) (s : State) : Host.Outcome State Fault Refusal :=
  match i with
  | .nop ctx => Sys2Proof.Machine.execNop ctx s
  | .poolInit ctx => Sys2Proof.Machine.execPoolInit ctx s
  | .poolTeardown ctx => Sys2Proof.Machine.execPoolTeardown ctx s
  | .acquire ctx => Sys2Proof.Machine.execAcquire ctx s
  | .release ctx => Sys2Proof.Machine.execRelease ctx s
  | .submit ctx q => Sys2Proof.Machine.execSubmit ctx q s
  | .submitSeg ctx q => Sys2Proof.Machine.execSubmitSeg ctx q s
  | .irq ctx g => Sys2Proof.Machine.execIrq ctx g s
  | .groupPoll ctx g => Sys2Proof.Machine.execGroupPoll ctx g s
  | .maskAll ctx g => Sys2Proof.Machine.execMaskAll ctx g s
  | .unmaskDefault ctx g => Sys2Proof.Machine.execUnmaskDefault ctx g s
  | .setCoalesce ctx k q => Sys2Proof.Machine.execSetCoalesce ctx k q s
  | .start ctx => Sys2Proof.Machine.execStart ctx s
  | .halt ctx => Sys2Proof.Machine.execHalt ctx s
  | .changeMtu ctx => Sys2Proof.Machine.execChangeMtu ctx s
  | .linkChange ctx up full => Sys2Proof.Machine.execLinkChange ctx up full s
  | .resetTask ctx => Sys2Proof.Machine.execResetTask ctx s
  | .txTimeout ctx q => Sys2Proof.Machine.execTxTimeout ctx q s
  | .readStats ctx => Sys2Proof.Machine.execReadStats ctx s
  | .ringInit ctx k q => Sys2Proof.Machine.execRingInit ctx k q s
  | .armRx ctx q => Sys2Proof.Machine.execArmRx ctx q s
  | .slotReady ctx k q => Sys2Proof.Machine.execSlotReady ctx k q s
  | .ringNext ctx k q => Sys2Proof.Machine.execRingNext ctx k q s
  | .rxPoll ctx q => Sys2Proof.Machine.execRxPoll ctx q s
  | .txPoll ctx q => Sys2Proof.Machine.execTxPoll ctx q s

end Sys2Proof.Machine
end

