-- ==== Sys2Proof/Machine/Step.lean ====
section
/-! DEFINITION. One step of the machine (spec 45 R343; log 1): the first move of the agenda happens. A command word
the host writes is the machine's next instruction (30 R127, R138; log 19). -/

namespace Sys2Proof.Machine

/-- The command a move writes and runs to its end: a host write to a command register (30 R131). -/
def commandOf : Move → Option (Nat × Word)
  | .hostWrite offset size v => commandWrite offset size v
  | _ => none

/-- One step: the first move of the agenda; a machine whose agents have no move left stays as it is (60 R380). -/
def step (s : State) : Host.Outcome State Fault Refusal :=
  match s.agenda with
  | [] => .next s
  | m :: ms =>
    match commandOf m with
    | some (c, w) =>
      match issue c w (s.setAgenda ms) with
      | .dropped => .next (s.setAgenda ms)
      | .ended t => .next t
      | .run i t => exec i t
    | none => performMove m (s.setAgenda ms)

/-- The register offset of `CMD` of bank `c` (30 R130). -/
def commandOffset (c : Nat) : BitVec 12 := BitVec.ofNat 12 (0x40 * c)

/-- The state in which the very next step is the host's write of the word `w` to the command register of the bank its
`ctx` field names (the bank idle): where this machine fetches its next instruction (log 19). -/
def State.withFetchWord (s : State) (nbits w : Nat) : State :=
  let word : Word := BitVec.ofNat 32 (w % 2 ^ nbits)
  let c := (commandFields word).ctx.toNat % numBanks
  (s.modBank c fun b => { b with busy := false, op := none }).setAgenda
    (.hostWrite (commandOffset c) 4 word :: s.agenda)

end Sys2Proof.Machine
end

