-- ==== Sys2Proof/Safety.lean ====
section
/-! DEFINITION. The terms in which statements about the controller are made: quiescent points and the invariants of
spec 10, what an operation leaves alone, a ring that can be walked, and an environment that keeps its contract. -/

namespace Sys2Proof.Machine

/-! ### Invariants -/

/-- A quiescent point: no operation is in progress on any context (00 R13). -/
abbrev State.quiescent (s : State) : Prop := ∀ c < numBanks, (s.bank c).busy = false

/-- No lock is held (10 R47). -/
def State.locksFree (s : State) : Prop := ∀ n : LockName, s.lockOf n = .free

/-- The bounds of the pool's lists: no local list and not the global list is longer than `RECYCLE_MAX` (10 R35). -/
def State.poolBounded (s : State) : Prop :=
  (∀ c, (s.bank c).localList.length ≤ s.params.recycleMax) ∧ s.pool.global.length ≤ s.params.recycleMax

/-- The pool's lists hold distinct live handles, each with its list as its owner (10 R35, 41 R180). -/
def State.poolOwned (s : State) : Prop :=
  (∀ c, (s.bank c).localList.Nodup ∧
    ∀ h ∈ (s.bank c).localList, s.live h = true ∧ s.owner h = some (.localList c)) ∧
  s.pool.global.Nodup ∧ ∀ h ∈ s.pool.global, s.live h = true ∧ s.owner h = some .globalList

/-- The ranges of the coalescer's counters (10 R38). -/
def State.coalescerBounded (s : State) : Prop := ∀ k q, s.pend k q ≤ 255 ∧ s.elapsed k q ≤ 65535

/-- The buffer table has one entry for a handle at most: handles strictly rising. -/
abbrev State.tableSorted (s : State) : Prop := (s.bufs.map fun e => e.1.toNat).Pairwise (· < ·)

/-! ### Memory -/

/-- Every byte of memory reads as before. -/
def State.sameBytes (s t : State) : Prop := ∀ a, readByte t.mem a = readByte s.mem a

/-- Every byte of memory that is not one of the `n` bytes from `lo` reads as before. -/
def State.sameBytesOutside (s t : State) (lo n : Nat) : Prop :=
  ∀ a, a < lo ∨ lo + n ≤ a → readByte t.mem a = readByte s.mem a

/-- The byte is one of a descriptor's written fields: `lstatus` at offset 0 or `addr` at offset 8 (30 R121). -/
abbrev inDescriptor (d a : Nat) : Prop := (d ≤ a ∧ a < d + 4) ∨ (d + 8 ≤ a ∧ a < d + 16)

/-! ### Rings -/

/-- A ring that can be walked: allocated, of at least one slot, its slots inside the address space (40 R160, 20 R82). -/
abbrev State.ringUsable (s : State) (k : Kind) (q : Nat) : Prop :=
  s.hasQueue k q = true ∧ s.ringAlloc k q = true ∧ 0 < s.ringSize k q ∧
    (s.ringBase k q).toNat + 16 * s.ringSize k q ≤ addressSpace

/-- An RX queue between polls: a usable ring, the cursor on it, its in-flight array as long as the ring (10 R23). -/
abbrev State.rxUsable (s : State) (q : Nat) : Prop :=
  s.ringUsable .rx q ∧ (s.rx q).cur < (s.rx q).n ∧ (s.rx q).inflight.length = (s.rx q).n

/-- A TX queue between operations: a usable ring, its cursors on it, no more slots free than it has, its in-flight
array as long as the ring (10 R24). -/
abbrev State.txUsable (s : State) (q : Nat) : Prop :=
  s.ringUsable .tx q ∧ (s.tx q).fill < (s.tx q).n ∧ (s.tx q).dirty < (s.tx q).n ∧ (s.tx q).free ≤ (s.tx q).n ∧
    (s.tx q).inflight.length = (s.tx q).n

/-- Every slot of every RX ring is armed with a live buffer of its own of the capacity in force, mapped for the engine:
its address and `EMPTY | INTERRUPT`, `WRAP` in the last slot alone (10 R26, 40 R166). -/
def State.rxArmed (s : State) : Prop :=
  ∀ q i, q < s.numRxq → i < (s.rx q).n →
    ∃ h b, s.rxEntry q i = .buf h ∧ s.buf h = some b ∧ b.live = true ∧ b.owner = .slot .rx q i ∧
      b.mapped = .fromDevice ∧ b.info.capacity = s.bufferCapacity ∧
      readDWord s.mem (s.desc .rx q i + 8) = b.info.phys ∧
      readWord s.mem (s.desc .rx q i) = (if i + 1 = (s.rx q).n then 0xB0000000 else 0x90000000)

/-- From `s` to `t` every ring below the counts was freed and every line masked and released (44 R293, R294). -/
def State.tornDown (s t : State) : Prop :=
  (∀ q, q < s.numTxq → (t.tx q).alloc = false) ∧ (∀ q, q < s.numRxq → (t.rx q).alloc = false) ∧
    ∀ g, g < s.numGroups → (t.grp g).irqRegistered = false ∧ (t.grp g).imask = 0

/-! ### The environment -/

/-- The ranges of memory the allocator will still answer `Alloc` with, each as long as a receive buffer. -/
def State.promisedBuffers (s : State) : List (Handle × DWord) := s.env.bufAnswers.filterMap id

/-- The allocator keeps its contract in its answers to `Alloc` (45 R332): each handle is not live and answered once,
each range is free memory and overlaps no other one. -/
abbrev State.allocatorHonest (s : State) : Prop :=
  (∀ a ∈ s.promisedBuffers, s.live a.1 = false ∧ s.freshRange a.2.toNat s.bufferCapacity = true) ∧
    s.promisedBuffers.Pairwise fun a b =>
      a.1 ≠ b.1 ∧ disjoint a.2.toNat s.bufferCapacity b.2.toNat s.bufferCapacity = true

/-- The sizes in bytes of the rings `START` asks for, in its order (44 R280). -/
def State.startRingBytes (s : State) : List Nat :=
  ((List.range s.numTxq).map fun q => 16 * (s.tx q).size.toNat) ++
    (List.range s.numRxq).map fun q => 16 * (s.rx q).size.toNat

/-- The number of receive buffers `START` asks for (44 R280). -/
def State.startBufferCount (s : State) : Nat := ((List.range s.numRxq).map fun q => (s.rx q).size.toNat).sum

/-- The capacity of the receive buffers `START` asks for, with the sizes it computes (44 R296; 10 R30). -/
def State.startCapacity (s : State) : Nat :=
  bufferSizeOf s.params s.dev.mtu s.hdrLen + s.params.alignSlack

/-- The ranges of memory that rings with these bases take, in the order in which `START` asks for them. -/
def State.ringRanges (s : State) (rings : List DWord) : List (Nat × Nat) :=
  (rings.map BitVec.toNat).zip s.startRingBytes

/-- Rings at these bases and these buffers, answered to a `START`, keep the allocator's contract (45 R331, R332): new
handles, all memory free, aligned where it is a ring, no two ranges overlapping. -/
def State.startGranted (s : State) (rings : List DWord) (bufs : List (Handle × DWord)) : Prop :=
  let ranges := s.ringRanges rings ++ bufs.map fun b => (b.2.toNat, s.startCapacity)
  (∀ a ∈ rings, a.toNat % 16 = 0) ∧ (bufs.map Prod.fst).Nodup ∧ (∀ b ∈ bufs, s.live b.1 = false) ∧
    (∀ r ∈ ranges, s.freshRange r.1 r.2 = true) ∧ ranges.Pairwise fun a b => disjoint a.1 a.2 b.1 b.2 = true

/-- The environment answers a `START` with every ring it asks for, with these buffers first, and with a registration for
every group, and keeps its contract (45 R331, R332, R334). -/
def State.startProvided (s : State) (rings : List DWord) (bufs : List (Handle × DWord)) : Prop :=
  rings.map some <+: s.env.ringAnswers ∧ rings.length = s.startRingBytes.length ∧ bufs.map some <+: s.env.bufAnswers ∧
    List.replicate s.numGroups true <+: s.env.irqAnswers ∧ s.startGranted rings bufs

/-- The environment answers everything a `START` from an empty pool asks for, and keeps its contract. -/
def State.startAnswered (s : State) : Prop :=
  ∃ rings bufs, s.startProvided rings bufs ∧ bufs.length = s.startBufferCount

/-- The environment keeps its contract and fails a `START` from an empty pool part-way: after these rings it has no
memory for the next, after all rings and these buffers none for the next buffer, or after all of them and `k`
registrations it declines the next. `START` then ends with `code`, and the answers `left` are left (44 R280, R283). -/
def State.startFails (s : State) (rings : List DWord) (bufs : List (Handle × DWord)) (code : Code) (left : Env) : Prop :=
  s.startGranted rings bufs ∧
    ((∃ r, code = .errOutOfMemory ∧ rings.length < s.startRingBytes.length ∧ bufs = [] ∧
        s.env.ringAnswers = rings.map some ++ none :: r ∧ left = { s.env with ringAnswers := r }) ∨
      ∃ r b, rings.length = s.startRingBytes.length ∧ s.env.ringAnswers = rings.map some ++ r ∧
        ((code = .errOutOfMemory ∧ bufs.length < s.startBufferCount ∧
            s.env.bufAnswers = bufs.map some ++ none :: b ∧
            left = { s.env with ringAnswers := r, bufAnswers := b }) ∨
          ∃ k i, code = .errIrq ∧ bufs.length = s.startBufferCount ∧ s.env.bufAnswers = bufs.map some ++ b ∧
            k < s.numGroups ∧ s.env.irqAnswers = List.replicate k true ++ false :: i ∧
            left = { s.env with ringAnswers := r, bufAnswers := b, irqAnswers := i }))

/-- The polls of a list of queues from `s`, one after another, each with the budget in `ARG0`, leave `u` and add up to
`total`; `done` is whether all of them were done, none where one ended with a fault, which ends the list (43 R256, R260).
A poll is `exec` of its micro-operation (log 12). -/
def pollsRun (ctx : BitVec 8) : List (Kind × Nat) → State → State → Option Bool → DWord → Prop
  | [], s, u, done, total => u = s ∧ done = some true ∧ total = 0
  | (k, q) :: rest, s, u, done, total =>
    ∃ v : State,
      exec (match k with | .rx => .rxPoll ctx (BitVec.ofNat 8 q) | .tx => .txPoll ctx (BitVec.ofNat 8 q)) s = .next v ∧
      (((v.bank ctx.toNat).status = .errFatal ∧ u = v ∧ done = none ∧ total = (v.bank ctx.toNat).rval1) ∨
        ((v.bank ctx.toNat).status = .ok ∧ ∃ (d : Option Bool) (n : DWord), pollsRun ctx rest v u d n ∧
          done = d.map (fun x => x && decide ((v.bank ctx.toNat).rval0 = 1)) ∧
          total = (v.bank ctx.toNat).rval1 + n))

/-- The pool holds no buffer (41 R181: as `POOL_INIT` leaves it). -/
def State.poolEmpty (s : State) : Prop := (∀ c, (s.bank c).localList = []) ∧ s.pool.global = []

/-- A device that can be halted without waiting for an operation: no poll is running, no submit is between its phases
(44 R288). -/
abbrev State.drained (s : State) : Prop :=
  (∀ g < s.numGroups, (s.grp g).pollRunning = false) ∧ ∀ q < s.numTxq, (s.tx q).phase = .readyForWork

/-- A graceful stop that the next move of the agenda acknowledges: the engine runs and its stop has not been
acknowledged (44 R290, 45 R326). -/
abbrev State.stopComing (s : State) (rest : List Move) : Prop :=
  s.agenda = .stopAck true :: rest ∧ s.dev.dmactrl = 2 ∧ s.dev.stopAcked = false ∧ s.dev.devevent = 0 ∧
    s.stopAckUnreliable = false

end Sys2Proof.Machine
end

