-- ==== Sys2Proof/Certificates/Slice0/Obligations.lean ====
section
/-! DEFINITION. The statements for the provers, in the order of OBLIGATIONS.json. A frame is written
`t = { s with f := t.f, … }`: every field of the state that is not named reads in `t` as in `s`. -/

open Sys2Proof Sys2Proof.Machine

/-! ### Encoding -/

/-- 30 R127, R128, R140: decoding the bytes of an encoded operation gives the operation back, every field at every
value, and leaves the bytes after it. -/
def Obligations.DecodeOfEncode : Prop :=
  ∀ (i : Instr) (rest : List Byte), decode (encode i ++ rest) = .ok (i, rest)

/-- 30 R127, R140: a word that decodes to an operation is the word that operation is written with: no bit of an
accepted word is ignored. -/
def Obligations.EncodeOfDecode : Prop :=
  ∀ (w : Word) (i : Instr), decodeWord w = .ok i → encodeWord i = w

/-- 30 R140, R141: a word decodes exactly when it selects a row of the opcode map (`w & mask = match`), to an operation
of that row, and no word selects two rows. -/
def Obligations.DecodeFollowsOpcodeMap : Prop :=
  (∀ w : Word, (∃ i, decodeWord w = .ok i) ↔ ∃ r ∈ opcodeTable, w &&& r.2 = r.1) ∧
  (∀ (w : Word) (i : Instr), decodeWord w = .ok i → opcodeRow i ∈ opcodeTable ∧
    w &&& (opcodeRow i).2 = (opcodeRow i).1) ∧
  ∀ r ∈ opcodeTable, ∀ r' ∈ opcodeTable, ∀ w : Word, w &&& r.2 = r.1 → w &&& r'.2 = r'.1 → r = r'

/-- 30 R127, R140, R141: words written out from the encoding, one or more of every family, decode to the operation they
stand for; reserved words to none. -/
def Obligations.WrittenWordsDecode : Prop :=
  decodeWord 0x00010000 = .ok (.nop 1) ∧ decodeWord 0x13010000 = .ok (.release 1) ∧
  decodeWord 0x20000100 = .ok (.submit 0 1) ∧ decodeWord 0x31000700 = .ok (.groupPoll 0 7) ∧
  decodeWord 0x42000301 = .ok (.setCoalesce 0 .tx 3) ∧ decodeWord 0x53000002 = .ok (.linkChange 0 false true) ∧
  decodeWord 0x53000001 = .ok (.linkChange 0 true false) ∧ decodeWord 0xE2010500 = .ok (.slotReady 1 .rx 5) ∧
  decodeWord 0x20000001 = .error (.nonzeroSub 0x20 1) ∧ decodeWord 0x50000100 = .error (.nonzeroIdx 0x50 1) ∧
  decodeWord 0x01000000 = .error (.unlistedOp 0x01)

/-! ### Reset -/

/-- 70 R401: the state after reset, for every value of the parameters; ring sizes and bitmaps 0 are no configuration
that `START` accepts. The parameters of `State.reset` itself are log 6. -/
def Obligations.ResetState : Prop :=
  ∀ p : Params,
    let s := State.resetWith p
    s.dev.devState = .down ∧ (∀ k q, s.ringAlloc k q = false) ∧
    (∀ g, (s.grp g).imask = 0 ∧ (s.grp g).ievent = 0 ∧ (s.grp g).irqRegistered = false ∧
      (s.grp g).pollScheduled = false ∧ (s.grp g).pollRunning = false) ∧
    s.pool.init = false ∧ s.pool.global = [] ∧ (∀ c, (s.bank c).localList = []) ∧
    s.dev.dmactrl = 0 ∧ s.dev.macctrl = 0 ∧ s.dev.idlestat = 3 ∧ s.dev.link = .down ∧
    s.dev.mtu = p.mtuReset ∧ s.dev.maxfrm = p.mtuReset + p.frameOverhead ∧
    s.dev.rxBufSize = roundUp (p.mtuReset + p.frameOverhead) p.rxBufIncrement ∧
    (∀ h, s.live h = false) ∧ (∀ k, bankGet s.stats 0 k = 0 ∧ bankGet s.snap 0 k = 0) ∧
    (∀ c, (s.bank c).cmd = 0 ∧ (s.bank c).arg0 = 0 ∧ (s.bank c).arg1 = 0 ∧ (s.bank c).arg2 = 0 ∧
      (s.bank c).status = .ok ∧ (s.bank c).rval0 = 0 ∧ (s.bank c).rval1 = 0) ∧
    (∀ k q, s.pend k q = 0 ∧ s.elapsed k q = 0) ∧
    s.dev.lastErr = .none ∧ s.dev.resetPending = false ∧ s.dev.ctlBusy = false ∧ s.quiescent ∧ s.locksFree ∧
    (∀ k q, s.ic k q = ⟨1, 0⟩) ∧ s.dev.nqueues = 0x111 ∧
    (∀ q, (s.rx q).size = 0 ∧ (s.tx q).size = 0) ∧ (∀ g, (s.grp g).rxq = 0 ∧ (s.grp g).txq = 0) ∧
    s.configOk = false ∧ (∀ q, (s.etx q).idle = true) ∧ State.reset = State.resetWith Params.default

/-- The invariants that every step keeps hold after reset. Memory lists nothing (log 7). -/
def Obligations.ResetInvariants : Prop :=
  Memory.wf State.reset.mem ∧ State.reset.poolBounded ∧ State.reset.coalescerBounded ∧ State.reset.tableSorted

/-! ### A command word -/

/-- 30 R138: a step at which the host writes a command word to an idle bank runs the operation the word decodes to, from
the state in which `CMD` holds the word and the bank is busy. The agenda and the run to the end are log 1. -/
def Obligations.StepRunsDecodedCommand : Prop :=
  ∀ (s : State) (c : Nat) (w : Word) (i : Instr) (ms : List Move),
    s.agenda = .hostWrite (commandOffset c) 4 w :: ms → c < numBanks → (s.bank c).busy = false →
    i.ctx.toNat = c → c < s.params.numCpus → decode (wordBytes w) = .ok (i, []) → i.isMicro = false →
    step s = exec i ((s.setAgenda ms).modBank c fun b => { b with cmd := w, busy := true })

/-- 30 R138: a command write to a busy bank is dropped; one whose `ctx` is not the bank, or no context, ends at once
with `ERR_BAD_ARG`. -/
def Obligations.CommandIssueRefused : Prop :=
  ∀ (s : State) (c : Nat) (w : Word) (ms : List Move),
    s.agenda = .hostWrite (commandOffset c) 4 w :: ms → c < numBanks →
    ((s.bank c).busy = true → step s = .next (s.setAgenda ms)) ∧
    ((s.bank c).busy = false → ((commandFields w).ctx.toNat ≠ c ∨ s.params.numCpus ≤ c) →
      step s = .next ((s.setAgenda ms).modBank c fun b => { b with cmd := w, status := .errBadArg }))

/-- 30 R141, R142: a word that selects no row of the opcode map, or the row of a micro-operation, ends at once with
`ERR_RESERVED_OP` and changes nothing else (the bank's `CMD` is the write itself). -/
def Obligations.ReservedAndMicroWordsRefused : Prop :=
  ∀ (s : State) (c : Nat) (w : Word) (ms : List Move),
    s.agenda = .hostWrite (commandOffset c) 4 w :: ms → c < numBanks → (s.bank c).busy = false →
    (commandFields w).ctx.toNat = c → c < s.params.numCpus →
    ((∀ r ∈ opcodeTable, w &&& r.2 ≠ r.1) ∨ (0xE0000000 ≤ w ∧ w ≤ 0xE5FFFFFF ∧ ∃ r ∈ opcodeTable, w &&& r.2 = r.1)) →
    step s = .next ((s.setAgenda ms).modBank c fun b => { b with cmd := w, status := .errReservedOp })

/-- 30 R129: the end of an operation: `STATUS` holds the code and reads with bits 31:8 zero, the results it lists are
written, those it does not list stay, the bank is idle, and nothing else changes. -/
def Obligations.OperationEnd : Prop :=
  ∀ (s : State) (c : Nat) (r : Result), c < numBanks →
    ((s.finish c r).bank c).busy = false ∧
    (s.finish c r).readRegister (BitVec.ofNat 12 (0x40 * c + 4)) 4 = codeBits r.code ∧
    ((s.finish c r).bank c).rval0 = r.rval0.getD (s.bank c).rval0 ∧
    ((s.finish c r).bank c).rval1 = r.rval1.getD (s.bank c).rval1 ∧
    (∃ b : Bank, s.finish c r = s.modBank c fun _ =>
      { s.bank c with status := r.code, rval0 := b.rval0, rval1 := b.rval1, busy := false, op := none }) ∧
    ∀ c', c' ≠ c → (s.finish c r).bank c' = s.bank c'

/-! ### Operations on registers only -/

/-- 44 R270: `NOP` returns `OK` and changes nothing but `STATUS`. -/
def Obligations.NopOnlyReports : Prop :=
  ∀ (ctx : BitVec 8) (s : State), exec (.nop ctx) s = .next (s.finish ctx.toNat (Result.only .ok))

/-- 44 R272, R273: `MASK_ALL` writes 0 and `UNMASK_DEFAULT` 3 into `IMASK`; a group that does not exist is
`ERR_BAD_ARG` with no other effect (which groups exist when `NQUEUES` holds more than 8: log 9). -/
def Obligations.GroupMaskWritten : Prop :=
  ∀ (ctx g : BitVec 8) (s : State),
    exec (.maskAll ctx g) s = .next (if g.toNat < s.numGroups
      then (s.modGrp g.toNat fun x => { x with imask := 0 }).finish ctx.toNat (Result.only .ok)
      else s.finish ctx.toNat (Result.only .errBadArg)) ∧
    exec (.unmaskDefault ctx g) s = .next (if g.toNat < s.numGroups
      then (s.modGrp g.toNat fun x => { x with imask := 3 }).finish ctx.toNat (Result.only .ok)
      else s.finish ctx.toNat (Result.only .errBadArg))

/-- 60 R371, R372, 20 R111: `IRQ` on a raised line while `UP` clears the two mask bits and schedules the poll, once;
otherwise `ERR_NOT_PENDING`, or `ERR_BAD_ARG` for a group that does not exist (log 9). -/
def Obligations.IrqMasksAndSchedules : Prop :=
  ∀ (ctx g : BitVec 8) (s : State),
    (s.numGroups ≤ g.toNat → exec (.irq ctx g) s = .next (s.finish ctx.toNat (Result.only .errBadArg))) ∧
    (g.toNat < s.numGroups → (s.dev.devState ≠ .up ∨ s.line g.toNat = false) →
      exec (.irq ctx g) s = .next (s.finish ctx.toNat (Result.only .errNotPending))) ∧
    (g.toNat < s.numGroups → s.dev.devState = .up → s.line g.toNat = true →
      exec (.irq ctx g) s = .next
        ((s.modGrp g.toNat fun x => { x with imask := x.imask &&& ~~~rtx, pollScheduled := true }).finish ctx.toNat
          { code := .ok, rval0 := some (if (s.grp g.toNat).pollScheduled then 0 else 1), rval1 := none }))

/-- 44 R311: `READ_STATS` copies the eight counters into the snapshot; the copy is one event of the operation in
progress (log 1), so no increment falls between two of its words. -/
def Obligations.ReadStatsCopies : Prop :=
  ∀ (ctx : BitVec 8) (s : State),
    exec (.readStats ctx) s = .next (({ s with snap := s.stats } : State).finish ctx.toNat (Result.only .ok)) ∧
    ∀ (c : Nat) (ms : List Move), s.agenda = .advance c :: ms → (s.bank c).op = some ⟨.readStats ctx, []⟩ →
      step s = .next (({ s with snap := s.stats, agenda := ms } : State).setOp c ⟨.readStats ctx, [.unit]⟩)

/-- 44 R307, R308, 60 R356: `TX_TIMEOUT` of a queue with a frame in flight while `UP` records the fault and asks for the
reset cycle; otherwise `ERR_NOT_PENDING`, or `ERR_BAD_ARG` for a queue that does not exist (log 9). -/
def Obligations.TxTimeoutRecorded : Prop :=
  ∀ (ctx q : BitVec 8) (s : State),
    (s.numTxq ≤ q.toNat → exec (.txTimeout ctx q) s = .next (s.finish ctx.toNat (Result.only .errBadArg))) ∧
    (q.toNat < s.numTxq → (s.dev.devState ≠ .up ∨ (s.tx q.toNat).free = (s.tx q.toNat).n) →
      exec (.txTimeout ctx q) s = .next (s.finish ctx.toNat (Result.only .errNotPending))) ∧
    (q.toNat < s.numTxq → s.dev.devState = .up → (s.tx q.toNat).free ≠ (s.tx q.toNat).n →
      exec (.txTimeout ctx q) s = .next
        ((s.modDev fun d => { d with lastErr := .txTimeout, resetPending := true }).finish ctx.toNat
          (Result.only .ok)))

/-- The frame of the operations on registers only, on every path: no byte of memory, no buffer, no queue, no pool list,
no engine register and no counter changes; of the groups, only `IMASK` and the gate's `poll_scheduled` of the group the
operation names; of the device, only `LASTERR` and `reset_pending`, by `TX_TIMEOUT`; the snapshot by `READ_STATS`; of
the banks only the results of the operation's own, `RVAL0` by `IRQ` alone, `RVAL1` by none. -/
def Obligations.RegisterOperationsFrame : Prop :=
  ∀ (ctx g : BitVec 8) (s t : State) (i : Instr),
    i ∈ [.nop ctx, .maskAll ctx g, .unmaskDefault ctx g, .irq ctx g, .readStats ctx, .txTimeout ctx g] →
    exec i s = .next t →
    s.sameBytes t ∧
    t = { s with groups := t.groups, dev := t.dev, snap := t.snap, banks := t.banks } ∧
    (∀ g', g' ≠ g.toNat → t.grp g' = s.grp g') ∧
    (t.grp g.toNat = { s.grp g.toNat with imask := (t.grp g.toNat).imask,
                                          pollScheduled := (t.grp g.toNat).pollScheduled }) ∧
    (i ∉ [.maskAll ctx g, .unmaskDefault ctx g, .irq ctx g] → t.groups = s.groups) ∧
    (i ≠ .irq ctx g → (t.grp g.toNat).pollScheduled = (s.grp g.toNat).pollScheduled) ∧
    t.dev = { s.dev with lastErr := t.dev.lastErr, resetPending := t.dev.resetPending } ∧
    (i ≠ .txTimeout ctx g → t.dev = s.dev) ∧ (i ≠ .readStats ctx → t.snap = s.snap) ∧
    (∀ c, c ≠ ctx.toNat → t.bank c = s.bank c) ∧
    t.bank ctx.toNat = { s.bank ctx.toNat with
      status := (t.bank ctx.toNat).status, rval0 := (t.bank ctx.toNat).rval0,
      busy := (t.bank ctx.toNat).busy, op := (t.bank ctx.toNat).op } ∧
    (i ≠ .irq ctx g → (t.bank ctx.toNat).rval0 = (s.bank ctx.toNat).rval0)

/-- 44 R276, 60 R368: `SET_COALESCE` with the queue's lock free writes the pair and evaluates it at once, as
`coalesce_eval` does in the state with the new pair; the lock is free again; no byte of memory and nothing else
changes. Operands out of range or a queue that does not exist (log 9) are `ERR_BAD_ARG` with no other effect. -/
def Obligations.SetCoalesceWrites : Prop :=
  ∀ (ctx q : BitVec 8) (k : Kind) (s : State),
    let f := (s.bank ctx.toNat).arg0
    let d := (s.bank ctx.toNat).arg1
    (s.hasQueue k q.toNat = true → 1 ≤ f.toNat → f.toNat ≤ 255 → d.toNat ≤ 65535 →
      s.lockOf (queueLock k q.toNat) = .free →
      ∃ t : State, exec (.setCoalesce ctx k q) s = .next (t.finish ctx.toNat (Result.only .ok)) ∧
        t = (s.setIc k q.toNat ⟨f.setWidth 8, d.setWidth 16⟩).coalesceEval k q.toNat ∧
        t.ic k q.toNat = ⟨f.setWidth 8, d.setWidth 16⟩ ∧ s.sameBytes t ∧
        t = { s with rxq := t.rxq, txq := t.txq, groups := t.groups }) ∧
    ((s.hasQueue k q.toNat = false ∨ f.toNat < 1 ∨ 255 < f.toNat ∨ 65535 < d.toNat) →
      exec (.setCoalesce ctx k q) s = .next (s.finish ctx.toNat (Result.only .errBadArg)))

/-- 44 R300: `LINK_CHANGE` with the transmit locks free writes `link` and `LINKCFG`, and the locks are free again;
link down keeps the speed and duplex fields; no byte of memory and nothing else changes. A speed above 16 bits is
`ERR_BAD_ARG`. -/
def Obligations.LinkChangeReprograms : Prop :=
  ∀ (ctx : BitVec 8) (up full : Bool) (s : State),
    let a := (s.bank ctx.toNat).arg0
    (2 ^ 16 ≤ a.toNat →
      exec (.linkChange ctx up full) s = .next (s.finish ctx.toNat (Result.only .errBadArg))) ∧
    (a.toNat < 2 ^ 16 → (∀ q, (s.tx q).lock = .free) →
      ∃ t : State, exec (.linkChange ctx up full) s = .next (t.finish ctx.toNat (Result.only .ok)) ∧
        (up = true → t.dev = { s.dev with
          link := .up (a.setWidth 16) full,
          linkcfg := BitVec.ofNat 32 (a.toNat * 2 ^ 16 + (if full then 2 else 0) + 1) }) ∧
        (up = false → t.dev = { s.dev with link := .down, linkcfg := s.dev.linkcfg &&& ~~~1 }) ∧
        s.sameBytes t ∧ t = { s with dev := t.dev })

/-! ### The recycle pool -/

/-- 41 R181, 44 R279: `POOL_INIT` empties the lists of the contexts and the global list, frees the pool's lock and marks
the pool initialised; `ERR_STATE` on an initialised pool or while another controller-level operation runs. -/
def Obligations.PoolInitEmpties : Prop :=
  ∀ (ctx : BitVec 8) (s : State), ctx.toNat < numBanks →
    (s.dev.ctlBusy = true ∨ s.pool.init = true →
      exec (.poolInit ctx) s = .next (s.finish ctx.toNat (Result.only .errState))) ∧
    (s.dev.ctlBusy = false → s.pool.init = false →
      ∃ t : State, exec (.poolInit ctx) s = .next (t.finish ctx.toNat (Result.only .ok)) ∧
        t.pool = { init := true, global := [], lock := .free } ∧
        (∀ c, t.bank c = { s.bank c with localList := if c < s.params.numCpus then [] else (s.bank c).localList }) ∧
        s.sameBytes t ∧ t = { s with pool := t.pool, banks := t.banks })

/-- 41 R182, 45 R333: `POOL_TEARDOWN` while `DOWN` frees every buffer of the pool, each of which is `Freed` and no
longer live if it had one reference; other buffers and every byte of memory stay (those of a freed buffer: log 38).
`ERR_STATE` without a pool, while not `DOWN`, or while another controller-level operation runs. -/
def Obligations.PoolTeardownFrees : Prop :=
  ∀ (ctx : BitVec 8) (s : State), ctx.toNat < numBanks →
    (s.dev.ctlBusy = true ∨ s.pool.init = false ∨ s.dev.devState ≠ .down →
      exec (.poolTeardown ctx) s = .next (s.finish ctx.toNat (Result.only .errState))) ∧
    (s.dev.ctlBusy = false → s.pool.init = true → s.dev.devState = .down →
      ∃ t : State, exec (.poolTeardown ctx) s = .next (t.finish ctx.toNat (Result.only .ok)) ∧
        t.pool = { s.pool with init := false, global := [] } ∧
        (∀ c, t.bank c = { s.bank c with localList := if c < s.params.numCpus then [] else (s.bank c).localList }) ∧
        (∀ h, (h ∈ s.pool.global ∨ ∃ c, c < s.params.numCpus ∧ h ∈ (s.bank c).localList) →
          t.owner h = (s.buf h).map (fun _ => .freed) ∧
          ((s.buf h).map (·.info.refs) = some 1 → t.live h = false)) ∧
        (∀ h, h ∉ s.pool.global → (∀ c, c < s.params.numCpus → h ∉ (s.bank c).localList) → t.buf h = s.buf h) ∧
        s.sameBytes t ∧ t = { s with pool := t.pool, banks := t.banks, bufs := t.bufs })

/-- 41 R185, R186: `ACQUIRE` with a buffer in the local list, or with the local list empty and the global list not:
the head of the list (after one exchange of the two lists) is the result and the stack's; the rest stays on the local
list; no byte of memory, no counter and no other buffer changes. Last-in first-out is the spec's decision (41 R180). -/
def Obligations.AcquireTakesPooledBuffer : Prop :=
  ∀ (ctx : BitVec 8) (s : State) (h : Handle) (l : List Handle), ctx.toNat < numBanks → s.pool.init = true →
    ((s.bank ctx.toNat).localList = h :: l →
      ∃ t : State, exec (.acquire ctx) s = .next t ∧
        t.bank ctx.toNat = { s.bank ctx.toNat with
          status := .ok, rval0 := h, busy := false, op := none, localList := l } ∧
        (∀ c, c ≠ ctx.toNat → t.bank c = s.bank c) ∧
        t.buf h = (s.buf h).map (fun b => { b with owner := .stack }) ∧ (∀ x, x ≠ h → t.buf x = s.buf x) ∧
        s.sameBytes t ∧ t = { s with banks := t.banks, bufs := t.bufs }) ∧
    ((s.bank ctx.toNat).localList = [] → s.pool.lock = .free → s.pool.global = h :: l →
      ∃ t : State, exec (.acquire ctx) s = .next t ∧
        t.bank ctx.toNat = { s.bank ctx.toNat with
          status := .ok, rval0 := h, busy := false, op := none, localList := l } ∧
        (∀ c, c ≠ ctx.toNat → t.bank c = s.bank c) ∧ t.pool = { s.pool with global := [] } ∧
        t.buf h = (s.buf h).map (fun b => { b with owner := .stack }) ∧
        (∀ x, x ≠ h → x ∈ l → t.buf x = (s.buf x).map (fun b => { b with owner := .localList ctx.toNat })) ∧
        (∀ x, x ≠ h → x ∉ l → t.buf x = s.buf x) ∧
        s.sameBytes t ∧ t = { s with banks := t.banks, bufs := t.bufs, pool := t.pool })

/-- 41 R185, R187, 45 R332: `ACQUIRE` with both lists empty asks the allocator: its buffer, new and live, of the
capacity of a receive buffer, is the result and the stack's; an allocator that has none makes it `ERR_ALLOC_FAIL`;
without a pool it is `ERR_STATE`. Nothing else changes but that the answer is used up. That its packet fields are empty
(log 41) and that its bytes stay what they were (log 38) are the model's choices. -/
def Obligations.AcquireAsksAllocator : Prop :=
  ∀ (ctx : BitVec 8) (s : State), ctx.toNat < numBanks →
    (s.pool.init = false → exec (.acquire ctx) s = .next (s.finish ctx.toNat (Result.only .errState))) ∧
    (s.pool.init = true → (s.bank ctx.toNat).localList = [] → s.pool.lock = .free → s.pool.global = [] →
      (∀ rest, s.env.bufAnswers = none :: rest → exec (.acquire ctx) s = .next
        (({ s with env := { s.env with bufAnswers := rest } } : State).finish ctx.toNat
          (Result.only .errAllocFail))) ∧
      ∀ h a rest, s.env.bufAnswers = some (h, a) :: rest → s.live h = false →
        s.freshRange a.toNat s.bufferCapacity = true →
        ∃ t : State, exec (.acquire ctx) s = .next t ∧
          t.bank ctx.toNat = { s.bank ctx.toNat with status := .ok, rval0 := h, busy := false, op := none } ∧
          (∀ c, c ≠ ctx.toNat → t.bank c = s.bank c) ∧
          t.buf h = some { live := true, owner := .stack, mapped := .none,
                           info := { capacity := s.bufferCapacity, phys := a, linear := true, refs := 1, bufs := [],
                                     nfrags := 0, needsTs := false, needsHdr := false } } ∧
          (∀ x, x ≠ h → t.buf x = s.buf x) ∧ t.env = { s.env with bufAnswers := rest } ∧
          s.sameBytes t ∧ t = { s with banks := t.banks, bufs := t.bufs, env := t.env })

/-- 41 R189, R190: `RELEASE` of a recycleable buffer of the stack pushes it on the local list, if need be after the
exchange of a full local list with an empty global list; no byte of memory changes, and of the other buffers only the
owner of those that changed list. -/
def Obligations.ReleaseRecycles : Prop :=
  ∀ (ctx : BitVec 8) (s : State),
    let h := (s.bank ctx.toNat).arg0
    ctx.toNat < numBanks → s.pool.init = true → s.live h = true → s.owner h = some .stack → s.recycleable h = true →
    ((s.bank ctx.toNat).localList.length < s.params.recycleMax →
      ∃ t : State, exec (.release ctx) s = .next t ∧
        t.bank ctx.toNat = { s.bank ctx.toNat with
          status := .ok, busy := false, op := none, localList := h :: (s.bank ctx.toNat).localList } ∧
        (∀ c, c ≠ ctx.toNat → t.bank c = s.bank c) ∧
        t.buf h = (s.buf h).map (fun b => { b with owner := .localList ctx.toNat }) ∧
        (∀ x, x ≠ h → t.buf x = s.buf x) ∧ s.sameBytes t ∧ t = { s with banks := t.banks, bufs := t.bufs }) ∧
    (s.params.recycleMax ≤ (s.bank ctx.toNat).localList.length → 0 < s.params.recycleMax → s.pool.lock = .free →
      s.pool.global = [] →
      ∃ t : State, exec (.release ctx) s = .next t ∧
        t.bank ctx.toNat = { s.bank ctx.toNat with status := .ok, busy := false, op := none, localList := [h] } ∧
        (∀ c, c ≠ ctx.toNat → t.bank c = s.bank c) ∧
        t.pool = { s.pool with global := (s.bank ctx.toNat).localList } ∧
        t.buf h = (s.buf h).map (fun b => { b with owner := .localList ctx.toNat }) ∧
        (∀ x, x ≠ h → x ∈ (s.bank ctx.toNat).localList →
          t.buf x = (s.buf x).map (fun b => { b with owner := .globalList })) ∧
        (∀ x, x ≠ h → x ∉ (s.bank ctx.toNat).localList → t.buf x = s.buf x) ∧
        s.sameBytes t ∧ t = { s with banks := t.banks, bufs := t.bufs, pool := t.pool })

/-- 41 R189, 45 R333, 70 R413: `RELEASE` frees a buffer that is not recycleable, and one for which neither list has
room: one reference is given up, the lists stay. What turns it away changes nothing: `ERR_STATE` without a pool,
`ERR_BAD_ARG` for a handle that is not live or not the stack's; a handle never described is no step, after the test of
the pool (log 11). That the bytes of a freed buffer stay is the model's choice (log 38). -/
def Obligations.ReleaseFreesOrRefuses : Prop :=
  ∀ (ctx : BitVec 8) (s : State),
    let h := (s.bank ctx.toNat).arg0
    ctx.toNat < numBanks →
    (s.pool.init = false → exec (.release ctx) s = .next (s.finish ctx.toNat (Result.only .errState))) ∧
    (s.pool.init = true → s.buf h = none → exec (.release ctx) s = .refused .unknownHandle) ∧
    ∀ b : Buffer, s.pool.init = true → s.buf h = some b →
      ((b.live = false ∨ b.owner ≠ .stack) →
        exec (.release ctx) s = .next (s.finish ctx.toNat (Result.only .errBadArg))) ∧
      (b.live = true → b.owner = .stack →
        (s.recycleable h = false ∨ (s.params.recycleMax ≤ (s.bank ctx.toNat).localList.length ∧
          s.pool.lock = .free ∧ s.pool.global ≠ [])) →
        ∃ t : State, exec (.release ctx) s = .next (t.finish ctx.toNat (Result.only .ok)) ∧
          t.buf h = some { b with live := decide (b.info.refs - 1 ≠ 0), owner := .freed,
                                  info := { b.info with refs := b.info.refs - 1 } } ∧
          (∀ x, x ≠ h → t.buf x = s.buf x) ∧ s.sameBytes t ∧ t = { s with bufs := t.bufs })

/-! ### The descriptor ring -/

/-- 40 R162, R163: `RING_INIT` of an unallocated ring with memory from the allocator zeroes the descriptors, marks the
last with `WRAP`, and gives the queue its ring, cursors, count and empty in-flight array; no byte outside the ring
changes. Without memory it is `ERR_OUT_OF_MEMORY` and nothing changes. `exec` of a micro-operation: log 12. -/
def Obligations.RingInitMakesRing : Prop :=
  ∀ (ctx q : BitVec 8) (k : Kind) (s : State),
    let n := (s.bank ctx.toNat).arg0.toNat
    Memory.wf s.mem → s.hasQueue k q.toNat = true → s.ringAlloc k q.toNat = false → legalRingSize n = true →
    (∀ rest, s.env.ringAnswers = none :: rest → exec (.ringInit ctx k q) s = .next
      (({ s with env := { s.env with ringAnswers := rest } } : State).finish ctx.toNat
        (Result.only .errOutOfMemory))) ∧
    ∀ base rest, s.env.ringAnswers = some base :: rest → base.toNat % 16 = 0 →
      s.freshRange base.toNat (16 * n) = true →
      ∃ t : State, exec (.ringInit ctx k q) s = .next (t.finish ctx.toNat (Result.only .ok)) ∧
        (∀ i, i < n →
          readWord t.mem (base.toNat + 16 * i) = (if i + 1 = n then 0x20000000 else 0) ∧
          readWord t.mem (base.toNat + 16 * i + 4) = 0 ∧ readDWord t.mem (base.toNat + 16 * i + 8) = 0) ∧
        s.sameBytesOutside t base.toNat (16 * n) ∧
        (k = .rx → t = { s with mem := t.mem, liveRings := t.liveRings, env := t.env, rxq := t.rxq } ∧
          t.rx q.toNat = { s.rx q.toNat with
            alloc := true, base := base, n := n, cur := 0, inflight := List.replicate n .empty, pend := 0,
            elapsed := 0 } ∧
          ∀ q', q' ≠ q.toNat → t.rx q' = s.rx q') ∧
        (k = .tx → t = { s with mem := t.mem, liveRings := t.liveRings, env := t.env, txq := t.txq } ∧
          t.tx q.toNat = { s.tx q.toNat with
            alloc := true, base := base, n := n, fill := 0, dirty := 0, free := n, stopped := false,
            inflight := List.replicate n .empty, phase := .readyForWork, pend := 0, elapsed := 0 } ∧
          ∀ q', q' ≠ q.toNat → t.tx q' = s.tx q') ∧
        t.liveRings = (base.toNat, 16 * n) :: s.liveRings ∧ t.env = { s.env with ringAnswers := rest }

/-- 30 R128, 40 R166: `ARM_RX` of a slot software owns writes the address and then `EMPTY | INTERRUPT`, `WRAP` exactly
in the last slot, with length 0; no other byte of memory and nothing else changes. An index outside the ring is
`ERR_BAD_ARG`; a slot the engine owns is outside its precondition and refused (both: log 13). `exec` of a
micro-operation: log 12. -/
def Obligations.ArmRxHandsSlotOver : Prop :=
  ∀ (ctx q : BitVec 8) (s : State),
    let i := (s.bank ctx.toNat).arg0.toNat
    let a := (s.bank ctx.toNat).arg1
    let d := (s.rx q.toNat).base.toNat + 16 * i
    (s.hasSlot .rx q.toNat i = false →
      exec (.armRx ctx q) s = .next (s.finish ctx.toNat (Result.only .errBadArg))) ∧
    (s.hasSlot .rx q.toNat i = true → d + 16 ≤ addressSpace →
      ((readWord s.mem d).getLsbD 31 = true → exec (.armRx ctx q) s = .refused .outsideContract) ∧
      ((readWord s.mem d).getLsbD 31 = false → Memory.wf s.mem →
        ∃ t : State, exec (.armRx ctx q) s = .next (t.finish ctx.toNat (Result.only .ok)) ∧
          readDWord t.mem (d + 8) = a ∧
          readWord t.mem d = (if i + 1 = (s.rx q.toNat).n then 0xB0000000 else 0x90000000) ∧
          (∀ x, ¬ inDescriptor d x → readByte t.mem x = readByte s.mem x) ∧ t = { s with mem := t.mem }))

/-- 30 R128, 40 R169, R172: `SLOT_READY` answers whether the ownership flag is clear, `RING_NEXT` 0 at the slot with
`WRAP` and the next index elsewhere, which is `(i + 1) mod N` where `WRAP` is in the last slot alone (10 R28; a ring
where it is not: log 44); neither changes anything else; an index outside the ring, and any index of a queue without
one, is an operand out of range, `ERR_BAD_ARG` (log 13). `exec` of a micro-operation: log 12. -/
def Obligations.SlotReadyAndRingNextAnswer : Prop :=
  ∀ (ctx q : BitVec 8) (k : Kind) (s : State),
    let i := (s.bank ctx.toNat).arg0.toNat
    let w := readWord s.mem (s.desc k q.toNat i)
    (s.hasSlot k q.toNat i = false →
      exec (.slotReady ctx k q) s = .next (s.finish ctx.toNat (Result.only .errBadArg)) ∧
      exec (.ringNext ctx k q) s = .next (s.finish ctx.toNat (Result.only .errBadArg))) ∧
    (s.hasSlot k q.toNat i = true → s.desc k q.toNat i + 4 ≤ addressSpace →
      exec (.slotReady ctx k q) s = .next (s.finish ctx.toNat
        { code := .ok, rval0 := some (if w.getLsbD 31 then 0 else 1), rval1 := none }) ∧
      exec (.ringNext ctx k q) s = .next (s.finish ctx.toNat
        { code := .ok, rval0 := some (if w.getLsbD 29 then 0 else BitVec.ofNat 64 (i + 1)), rval1 := none }) ∧
      (w.getLsbD 29 = decide (i + 1 = s.ringSize k q.toNat) →
        exec (.ringNext ctx k q) s = .next (s.finish ctx.toNat
          { code := .ok, rval0 := some (BitVec.ofNat 64 ((i + 1) % s.ringSize k q.toNat)), rval1 := none })))

/-! ### Transmit -/

/-- 42 R203, R206, R208 to R210: `SUBMIT` of a complete packet that fits, while `UP`: region `k` of its `nbd` regions is
in slot `(fill + k) mod N` with its address and length, `READY`, `WRAP` in the last slot of the ring, `LAST | INTERRUPT`
on the last descriptor; the in-flight entries, the cursor and the count follow; the packet is the slot's and mapped;
the engine's ring is woken; no byte outside the frame's descriptors and nothing else changes. -/
def Obligations.SubmitCommitsFrame : Prop :=
  ∀ (ctx q : BitVec 8) (s : State) (b : Buffer),
    let h := (s.bank ctx.toNat).arg0
    let x := s.tx q.toNat
    let nbd := b.info.bufs.length
    let slot := fun k => (x.fill + k) % x.n
    Memory.wf s.mem → s.txUsable q.toNat → s.dev.devState = .up → x.phase = .readyForWork → x.lock = .free →
    s.buf h = some b → b.live = true → b.owner = .stack → wellFormedPacket b.info = true → nbd ≤ x.free →
    ∃ t : State, exec (.submit ctx q) s = .next (t.finish ctx.toNat (Result.only .ok)) ∧
      (∀ k, (hk : k < nbd) →
        readDWord t.mem (s.desc .tx q.toNat (slot k) + 8) = b.info.bufs[k].addr ∧
        readWord t.mem (s.desc .tx q.toNat (slot k)) =
          (0x8000 ||| (if slot k + 1 = x.n then 0x2000 else 0) ||| (if k + 1 = nbd then 0x1800 else 0) : BitVec 16) ++
            BitVec.ofNat 16 b.info.bufs[k].len) ∧
      (∀ a, (∀ k, k < nbd → ¬ inDescriptor (s.desc .tx q.toNat (slot k)) a) →
        readByte t.mem a = readByte s.mem a) ∧
      t.tx q.toNat = { x with fill := (x.fill + nbd) % x.n, free := x.free - nbd,
                              inflight := (t.tx q.toNat).inflight } ∧
      (t.tx q.toNat).inflight.length = x.n ∧ t.txEntry q.toNat x.fill = .head h nbd ∧
      (∀ k, 0 < k → k < nbd → t.txEntry q.toNat (slot k) = .cont x.fill) ∧
      (∀ i, (∀ k, k < nbd → i ≠ slot k) → t.txEntry q.toNat i = s.txEntry q.toNat i) ∧
      (∀ q', q' ≠ q.toNat → t.tx q' = s.tx q' ∧ t.etx q' = s.etx q') ∧
      t.etx q.toNat = { s.etx q.toNat with idle := false } ∧
      t.buf h = some { b with owner := .slot .tx q.toNat x.fill, mapped := .toDevice } ∧
      (∀ y, y ≠ h → t.buf y = s.buf y) ∧
      t = { s with mem := t.mem, txq := t.txq, engTx := t.engTx, bufs := t.bufs }

/-- 20 R109, 42 R202 to R205, R212, 70 R413: what `SUBMIT` comes to other than `OK`, in the order of its tests, with all
it changes: `ERR_BAD_ARG` and `ERR_STATE` nothing, `BUSY` while not `UP` nothing, `BUSY` for want of space the stopped
flag alone, so no descriptor is written. A second submit on a queue is `ERR_STATE`, of the same packet too; the packet
of a submit in progress is `ERR_BAD_ARG` on a queue that is ready (the model's choice: log 43). No step for a handle
never described (after the queue's test: log 11) and for a packet that is not complete (after the tests that return a
code: log 29). Which queues exist when `NQUEUES` holds more than 8: log 9. -/
def Obligations.SubmitTurnedAway : Prop :=
  ∀ (ctx q : BitVec 8) (s : State),
    let h := (s.bank ctx.toNat).arg0
    let x := s.tx q.toNat
    (s.hasQueue .tx q.toNat = false →
      exec (.submit ctx q) s = .next (s.finish ctx.toNat (Result.only .errBadArg))) ∧
    (s.hasQueue .tx q.toNat = true → s.buf h = none → exec (.submit ctx q) s = .refused .unknownHandle) ∧
    ∀ b : Buffer, s.hasQueue .tx q.toNat = true → s.buf h = some b →
      ((b.live = false ∨ (b.owner ≠ .stack ∧ ∀ c, b.owner ≠ .submitted c)) →
        exec (.submit ctx q) s = .next (s.finish ctx.toNat (Result.only .errBadArg))) ∧
      (b.live = true → (b.owner = .stack ∨ ∃ c, b.owner = .submitted c) →
        (x.phase ≠ .readyForWork →
          exec (.submit ctx q) s = .next (s.finish ctx.toNat (Result.only .errState))) ∧
        (x.phase = .readyForWork → s.dev.devState ≠ .up →
          exec (.submit ctx q) s = .next (s.finish ctx.toNat (Result.only .busy))) ∧
        (x.phase = .readyForWork → s.dev.devState = .up → b.owner ≠ .stack →
          exec (.submit ctx q) s = .next (s.finish ctx.toNat (Result.only .errBadArg)))) ∧
      (b.live = true → b.owner = .stack →
        (x.phase = .readyForWork → s.dev.devState = .up → wellFormedPacket b.info = false →
          exec (.submit ctx q) s = .refused .malformedPacket) ∧
        (x.phase = .readyForWork → s.dev.devState = .up → wellFormedPacket b.info = true → x.lock = .free →
          x.free < requiredOf b.info →
          exec (.submit ctx q) s = .next
            ((s.modTx q.toNat fun y => { y with stopped := true }).finish ctx.toNat (Result.only .busy))))

/-- 42 R206, R208 to R210, R213, R215 to R217: `SUBMIT_SEG` of a complete packet, while `UP`, whose segments all fit,
commits each as a frame of its own, one after another from the fill cursor. Of each segment: region `k` is in its slot
with address and length, `READY`, `WRAP` in the last slot of the ring, `LAST | INTERRUPT` on the segment's last
descriptor; its first entry is `Head`, the others `Cont`; it is the slot's and mapped. Cursor and count move by all of
them, the ring is woken where there is a segment, the packet itself is freed; no other in-flight entry, no byte outside
the segments' descriptors and nothing else changes. The answer is the transform collaborator's, inside its contract
(log 34); that the bytes of the segments' own buffers stay what they were (log 42), and those of the freed packet
(log 38), are the model's choices. -/
def Obligations.SubmitSegCommitsAll : Prop :=
  ∀ (ctx q : BitVec 8) (s : State) (b : Buffer) (segs : List (Handle × BufInfo)) (rest : List SegmentAnswer),
    let h := (s.bank ctx.toNat).arg0
    let m := (s.bank ctx.toNat).arg1.toNat
    let x := s.tx q.toNat
    let total := (segs.map fun e => requiredOf e.2).sum
    let slot := fun j k => (x.fill + ((segs.take j).map fun e => requiredOf e.2).sum + k) % x.n
    Memory.wf s.mem → s.txUsable q.toNat → s.dev.devState = .up → x.phase = .readyForWork → x.lock = .free →
    s.buf h = some b → b.live = true → b.owner = .stack → wellFormedPacket b.info = true → 1 ≤ m → m ≤ 65535 →
    s.env.segAnswers = ⟨segs, true⟩ :: rest → segmentsOk s segs = true → total ≤ x.free →
    ∃ t : State, exec (.submitSeg ctx q) s = .next (t.finish ctx.toNat (Result.only .ok)) ∧
      (∀ j, (hj : j < segs.length) →
        (∀ k, (hk : k < segs[j].2.bufs.length) →
          readDWord t.mem (s.desc .tx q.toNat (slot j k) + 8) = segs[j].2.bufs[k].addr ∧
          readWord t.mem (s.desc .tx q.toNat (slot j k)) =
            (0x8000 ||| (if slot j k + 1 = x.n then 0x2000 else 0) |||
              (if k + 1 = segs[j].2.bufs.length then 0x1800 else 0) : BitVec 16) ++
              BitVec.ofNat 16 segs[j].2.bufs[k].len) ∧
        t.txEntry q.toNat (slot j 0) = .head segs[j].1 segs[j].2.bufs.length ∧
        (∀ k, 0 < k → k < segs[j].2.bufs.length → t.txEntry q.toNat (slot j k) = .cont (slot j 0)) ∧
        t.buf segs[j].1 = some { live := true, info := segs[j].2, owner := .slot .tx q.toNat (slot j 0),
                                 mapped := .toDevice }) ∧
      (∀ a, (∀ k, k < total → ¬ inDescriptor (s.desc .tx q.toNat ((x.fill + k) % x.n)) a) →
        readByte t.mem a = readByte s.mem a) ∧
      (∀ i, (∀ k, k < total → i ≠ (x.fill + k) % x.n) → t.txEntry q.toNat i = s.txEntry q.toNat i) ∧
      t.tx q.toNat = { x with fill := (x.fill + total) % x.n, free := x.free - total,
                              inflight := (t.tx q.toNat).inflight } ∧
      (t.tx q.toNat).inflight.length = x.n ∧
      t.etx q.toNat = { s.etx q.toNat with idle := if segs = [] then (s.etx q.toNat).idle else false } ∧
      (∀ q', q' ≠ q.toNat → t.tx q' = s.tx q' ∧ t.etx q' = s.etx q') ∧
      t.buf h = some { b with live := decide (b.info.refs - 1 ≠ 0), owner := .freed,
                              info := { b.info with refs := b.info.refs - 1 } } ∧
      (∀ y, y ≠ h → y ∉ segs.map Prod.fst → t.buf y = s.buf y) ∧
      t.env = { s.env with segAnswers := rest } ∧
      t = { s with mem := t.mem, txq := t.txq, engTx := t.engTx, bufs := t.bufs, env := t.env }

/-- 20 R109, 42 R202, R215, R217, 70 R413: `SUBMIT_SEG` on every outcome other than `OK`, in the order of its tests: no
descriptor is written, the segments that were built are freed and no longer live if they had one reference, the packet
stays with the stack; `ERR_SEG_FAILED` where the segmentation did not finish, `BUSY` with the stopped flag where not all
segments fit, `BUSY` while not `UP`, and the argument and state tests. The packet of a submit in progress is `ERR_STATE`
on a busy queue and, the model's choice (log 43), `ERR_BAD_ARG` on one that is ready. No step for a handle never
described (log 11), for a packet that is not complete (log 29) and for an answer outside the collaborator's contract
(log 34). An exhausted list of answers builds nothing and does not finish (log 4); which queues exist when `NQUEUES`
holds more than 8: log 9; that the bytes of the segments' buffers stay: log 42, log 38. -/
def Obligations.SubmitSegAllOrNothing : Prop :=
  ∀ (ctx q : BitVec 8) (s : State),
    let h := (s.bank ctx.toNat).arg0
    let m := (s.bank ctx.toNat).arg1.toNat
    let x := s.tx q.toNat
    ((s.hasQueue .tx q.toNat = false ∨ m = 0 ∨ 65535 < m) →
      exec (.submitSeg ctx q) s = .next (s.finish ctx.toNat (Result.only .errBadArg))) ∧
    (s.hasQueue .tx q.toNat = true → 1 ≤ m → m ≤ 65535 → s.buf h = none →
      exec (.submitSeg ctx q) s = .refused .unknownHandle) ∧
    ∀ b : Buffer, s.hasQueue .tx q.toNat = true → 1 ≤ m → m ≤ 65535 → s.buf h = some b →
      ((b.live = false ∨ (b.owner ≠ .stack ∧ ∀ c, b.owner ≠ .submitted c)) →
        exec (.submitSeg ctx q) s = .next (s.finish ctx.toNat (Result.only .errBadArg))) ∧
      (b.live = true → (b.owner = .stack ∨ ∃ c, b.owner = .submitted c) →
        (x.phase ≠ .readyForWork →
          exec (.submitSeg ctx q) s = .next (s.finish ctx.toNat (Result.only .errState))) ∧
        (x.phase = .readyForWork → s.dev.devState ≠ .up →
          exec (.submitSeg ctx q) s = .next (s.finish ctx.toNat (Result.only .busy))) ∧
        (x.phase = .readyForWork → s.dev.devState = .up → b.owner ≠ .stack →
          exec (.submitSeg ctx q) s = .next (s.finish ctx.toNat (Result.only .errBadArg)))) ∧
      (b.live = true → b.owner = .stack →
        (x.phase = .readyForWork → s.dev.devState = .up →
          (wellFormedPacket b.info = false → exec (.submitSeg ctx q) s = .refused .malformedPacket) ∧
          (wellFormedPacket b.info = true →
            (s.env.segAnswers = [] →
              exec (.submitSeg ctx q) s = .next (s.finish ctx.toNat (Result.only .errSegFailed))) ∧
            ∀ a rest, s.env.segAnswers = a :: rest →
              (segmentsOk s a.segs = false → exec (.submitSeg ctx q) s = .refused .transformContract) ∧
              (segmentsOk s a.segs = true →
                (a.complete = false ∨ (x.lock = .free ∧ x.free < (a.segs.map fun e => requiredOf e.2).sum)) →
                ∃ t : State, exec (.submitSeg ctx q) s = .next (t.finish ctx.toNat
                    (Result.only (if a.complete then .busy else .errSegFailed))) ∧
                  s.sameBytes t ∧ t.tx q.toNat = { x with stopped := a.complete || x.stopped } ∧
                  (∀ q', q' ≠ q.toNat → t.tx q' = s.tx q') ∧
                  (∀ e ∈ a.segs, t.owner e.1 = some .freed ∧ (e.2.refs = 1 → t.live e.1 = false)) ∧
                  (∀ y, y ∉ a.segs.map Prod.fst → t.buf y = s.buf y) ∧
                  t.env = { s.env with segAnswers := rest } ∧
                  t = { s with txq := t.txq, bufs := t.bufs, env := t.env }))))

/-! ### Cleanup -/

/-- 43 R230, R244 to R251: `TX_POLL` with any budget comes to an end on a usable queue with the locks free: it reports
no more work than the budget, never fewer slots free, the cursor on the ring; either `OK`, or `ERR_FATAL` with a fault
recorded; it does not touch the fill cursor, the receive queues, the groups, the engine or a byte outside the ring
(those of a freed buffer: log 38). `exec` of a micro-operation: log 12. -/
def Obligations.TxPollEnds : Prop :=
  ∀ (ctx q : BitVec 8) (s : State),
    let x := s.tx q.toNat
    ctx.toNat < numBanks → s.txUsable q.toNat → s.dev.devState = .up → x.lock = .free → s.pool.lock = .free →
    0 < s.params.recycleMax → (s.bank ctx.toNat).arg0.toNat < 2 ^ 32 →
    ∃ t : State, exec (.txPoll ctx q) s = .next t ∧ (t.bank ctx.toNat).busy = false ∧
      ((t.bank ctx.toNat).status = .ok ∧ t.dev = s.dev ∨
        (t.bank ctx.toNat).status = .errFatal ∧
          t.dev = { s.dev with lastErr := .txNoHandle, resetPending := true }) ∧
      (t.bank ctx.toNat).rval1.toNat ≤ (s.bank ctx.toNat).arg0.toNat ∧
      x.free ≤ (t.tx q.toNat).free ∧ (t.tx q.toNat).dirty < x.n ∧
      t.tx q.toNat = { x with dirty := (t.tx q.toNat).dirty, free := (t.tx q.toNat).free,
                              stopped := (t.tx q.toNat).stopped, inflight := (t.tx q.toNat).inflight } ∧
      (∀ q', q' ≠ q.toNat → t.tx q' = s.tx q') ∧
      (Memory.wf s.mem → s.sameBytesOutside t x.base.toNat (16 * x.n)) ∧
      t = { s with mem := t.mem, txq := t.txq, bufs := t.bufs, pool := t.pool, banks := t.banks, dev := t.dev,
                   stats := t.stats }

/-- 43 R244 to R248, 41 R189, R190: `TX_POLL` with any budget but 0, where one frame is in flight and the engine has
completed it: the work is 1 and the queue done; the frame's descriptors keep `WRAP` alone with length 0, its in-flight
entries are `Empty` and the others stay, the dirty cursor is behind it, every slot is free and the queue is not stopped;
an error flag of the last descriptor is counted; no byte but those of the cleaned words changes. The packet is unmapped
and released: a recycleable one is the head of the local list if there is room, or after the exchange of a full local
list with an empty global list; otherwise one reference of it is given up and the lists stay. Of other buffers only the
owner of those that change list changes. `exec` of a micro-operation: log 12; the bytes of a freed buffer: log 38. -/
def Obligations.TxPollCleansFrame : Prop :=
  ∀ (ctx q : BitVec 8) (s : State) (h : Handle) (nbd : Nat) (b : Buffer),
    let x := s.tx q.toNat
    let last := readWord s.mem (s.desc .tx q.toNat ((x.dirty + nbd - 1) % x.n))
    let c := ctx.toNat
    let l := (s.bank c).localList
    let room := l.length < s.params.recycleMax
    c < numBanks → Memory.wf s.mem → s.txUsable q.toNat → s.dev.devState = .up → x.lock = .free →
    s.pool.lock = .free → 0 < s.params.recycleMax →
    1 ≤ (s.bank c).arg0.toNat → (s.bank c).arg0.toNat < 2 ^ 32 →
    s.txEntry q.toNat x.dirty = .head h nbd → 1 ≤ nbd → x.free + nbd = x.n → last.getLsbD 31 = false →
    s.buf h = some b → b.live = true →
    ∃ t : State, exec (.txPoll ctx q) s = .next t ∧
      t.bank c = { s.bank c with status := .ok, rval0 := 1, rval1 := 1, busy := false, op := none,
                                 localList := (t.bank c).localList } ∧
      (∀ c', c' ≠ c → t.bank c' = s.bank c') ∧
      t.tx q.toNat = { x with dirty := (x.dirty + nbd) % x.n, free := x.n, stopped := false,
                              inflight := (t.tx q.toNat).inflight } ∧
      (t.tx q.toNat).inflight.length = x.n ∧
      (∀ k, k < nbd → t.txEntry q.toNat ((x.dirty + k) % x.n) = .empty ∧
        readWord t.mem (s.desc .tx q.toNat ((x.dirty + k) % x.n)) =
          readWord s.mem (s.desc .tx q.toNat ((x.dirty + k) % x.n)) &&& 0x20000000 ∧
        readDWord t.mem (s.desc .tx q.toNat ((x.dirty + k) % x.n) + 8) =
          readDWord s.mem (s.desc .tx q.toNat ((x.dirty + k) % x.n) + 8)) ∧
      (∀ i, (∀ k, k < nbd → i ≠ (x.dirty + k) % x.n) → t.txEntry q.toNat i = s.txEntry q.toNat i) ∧
      (s.recycleable h = true → (room ∨ s.pool.global = []) →
        t.buf h = some { b with owner := .localList c, mapped := .none } ∧
        (room → (t.bank c).localList = h :: l ∧ t.pool = s.pool ∧ ∀ y, y ≠ h → t.buf y = s.buf y) ∧
        (¬ room → (t.bank c).localList = [h] ∧ t.pool = { s.pool with global := l } ∧
          ∀ y, y ≠ h → t.buf y = if y ∈ l then (s.buf y).map (fun z => { z with owner := .globalList })
            else s.buf y)) ∧
      ((s.recycleable h = false ∨ (¬ room ∧ s.pool.global ≠ [])) →
        t.buf h = some { b with live := decide (b.info.refs - 1 ≠ 0), owner := .freed, mapped := .none,
                                info := { b.info with refs := b.info.refs - 1 } } ∧
        (t.bank c).localList = l ∧ t.pool = s.pool ∧ ∀ y, y ≠ h → t.buf y = s.buf y) ∧
      bankGet t.stats 0 4 = bankGet s.stats 0 4 + (if last.getLsbD 17 then 1 else 0) ∧
      bankGet t.stats 0 5 = bankGet s.stats 0 5 + (if last.getLsbD 23 || last.getLsbD 22 then 1 else 0) ∧
      (∀ k, k ≠ 4 → k ≠ 5 → bankGet t.stats 0 k = bankGet s.stats 0 k) ∧
      (∀ a, (∀ k, k < nbd → a < s.desc .tx q.toNat ((x.dirty + k) % x.n) ∨
          s.desc .tx q.toNat ((x.dirty + k) % x.n) + 4 ≤ a) → readByte t.mem a = readByte s.mem a) ∧
      (∀ q', q' ≠ q.toNat → t.tx q' = s.tx q') ∧
      t = { s with mem := t.mem, txq := t.txq, bufs := t.bufs, pool := t.pool, banks := t.banks, stats := t.stats }

/-- 43 R230, R232 to R241: `RX_POLL` with any budget comes to an end on a usable queue with the pool's lock free and an
allocator that keeps its contract: it reports no more work than the budget, the cursor on the ring; either `OK`, or
`ERR_FATAL` with a fault recorded; it does not touch the transmit queues, the groups, the engine or a byte outside the
ring (those of a buffer the allocator hands out in the poll: log 38). `exec` of a micro-operation: log 12. -/
def Obligations.RxPollEnds : Prop :=
  ∀ (ctx q : BitVec 8) (s : State),
    let x := s.rx q.toNat
    ctx.toNat < numBanks → s.rxUsable q.toNat → s.dev.devState = .up → s.pool.lock = .free → s.allocatorHonest →
    (s.bank ctx.toNat).arg0.toNat < 2 ^ 32 →
    ∃ t : State, exec (.rxPoll ctx q) s = .next t ∧ (t.bank ctx.toNat).busy = false ∧
      ((t.bank ctx.toNat).status = .ok ∧ t.dev = s.dev ∨
        (t.bank ctx.toNat).status = .errFatal ∧
          t.dev = { s.dev with lastErr := .rxNoHandle, resetPending := true }) ∧
      (t.bank ctx.toNat).rval1.toNat ≤ (s.bank ctx.toNat).arg0.toNat ∧
      t.rx q.toNat = { x with cur := (t.rx q.toNat).cur, inflight := (t.rx q.toNat).inflight } ∧
      (t.rx q.toNat).cur < x.n ∧ (t.rx q.toNat).inflight.length = x.n ∧ (∀ q', q' ≠ q.toNat → t.rx q' = s.rx q') ∧
      (Memory.wf s.mem → s.sameBytesOutside t x.base.toNat (16 * x.n)) ∧
      t = { s with mem := t.mem, rxq := t.rxq, bufs := t.bufs, pool := t.pool, banks := t.banks, dev := t.dev,
                   stats := t.stats, env := t.env }

/-- 43 R232 to R237: `RX_POLL` with any budget but 0, where the slot at the cursor holds a good frame (none of `LARGE`,
`NONOCTET`, `SHORT`, `CRCERR`, `OVERRUN`, `TRUNC`, longer than the header, no longer than `maxfrm` and it), a
replacement is in the local list and the next slot is the engine's (or the ring has one slot): the replacement is in the
slot, mapped, the slot is armed with its address; the old buffer is delivered once, trimmed of its header, and the
stack's; the cursor advances; the work is 1 and the queue done. The metadata and the stack's answer are the
environment's, free where it gives none (log 5). `exec` of a micro-operation: log 12. -/
def Obligations.RxPollDelivers : Prop :=
  ∀ (ctx q : BitVec 8) (s : State) (h h2 : Handle) (l : List Handle) (b2 : Buffer),
    let x := s.rx q.toNat
    let w := readWord s.mem (s.desc .rx q.toNat x.cur)
    let next := (x.cur + 1) % x.n
    let len := lengthOf w
    let lenBad := w.getLsbD 21 || w.getLsbD 19 || decide (s.dev.maxfrm + s.hdrLen < len) || decide (len ≤ s.hdrLen)
    let bad := lenBad || w.getLsbD 20 || w.getLsbD 18 || w.getLsbD 17 || w.getLsbD 16
    ctx.toNat < numBanks → Memory.wf s.mem → s.rxUsable q.toNat → s.dev.devState = .up →
    1 ≤ (s.bank ctx.toNat).arg0.toNat → (s.bank ctx.toNat).arg0.toNat < 2 ^ 32 →
    w.getLsbD 31 = false → bad = false →
    s.rxEntry q.toNat x.cur = .buf h → (s.bank ctx.toNat).localList = h2 :: l → h ≠ h2 → s.buf h2 = some b2 →
    (next = x.cur ∨ (readWord s.mem (s.desc .rx q.toNat next)).getLsbD 31 = true) →
    ∃ t : State, exec (.rxPoll ctx q) s = .next t ∧
      t.bank ctx.toNat = { s.bank ctx.toNat with
        status := .ok, rval0 := 1, rval1 := 1, busy := false, op := none, localList := l } ∧
      (∀ c, c ≠ ctx.toNat → t.bank c = s.bank c) ∧
      t.rx q.toNat = { x with cur := next, inflight := x.inflight.set x.cur (.buf h2) } ∧
      (∀ q', q' ≠ q.toNat → t.rx q' = s.rx q') ∧
      t.buf h2 = some { b2 with owner := .slot .rx q.toNat x.cur, mapped := .fromDevice } ∧
      t.buf h = (s.buf h).map (fun b => { b with owner := .stack, mapped := .none }) ∧
      (∀ y, y ≠ h → y ≠ h2 → t.buf y = s.buf y) ∧
      readDWord t.mem (s.desc .rx q.toNat x.cur + 8) = b2.info.phys ∧
      readWord t.mem (s.desc .rx q.toNat x.cur) = (if x.cur + 1 = x.n then 0xB0000000 else 0x90000000) ∧
      (∀ a, ¬ inDescriptor (s.desc .rx q.toNat x.cur) a → readByte t.mem a = readByte s.mem a) ∧
      t.env = { s.env with
        metaAnswers := if s.hdrLen = 0 then s.env.metaAnswers else s.env.metaAnswers.tail,
        deliverAnswers := s.env.deliverAnswers.tail,
        delivered := s.env.delivered ++
          [{ handle := h, offset := s.hdrLen, length := len - s.hdrLen, info := s.rxMeta s.hdrLen,
             answer := s.deliverAnswer }] } ∧
      t = { s with mem := t.mem, rxq := t.rxq, bufs := t.bufs, banks := t.banks, env := t.env }

/-- 43 R233, R234, R238: `RX_POLL` with any budget but 0, where the slot at the cursor holds a bad frame, or a good one
for which there is no buffer in the pool and none from the allocator, and the next slot is the engine's (or the ring has
one slot): the frame is dropped, the same buffer is in the same slot, mapped and armed with its address; `LARGE`,
`SHORT`, a length above `maxfrm` and the header or not above the header count once in counter 0, `CRCERR` in 1,
`OVERRUN` in 2, `TRUNC` in 3, `NONOCTET` in 7, the missing buffer in 6; nothing is delivered; the cursor advances; the
work is 1 and the queue done. `exec` of a micro-operation: log 12. -/
def Obligations.RxPollDropsFrame : Prop :=
  ∀ (ctx q : BitVec 8) (s : State) (h : Handle) (b : Buffer),
    let x := s.rx q.toNat
    let w := readWord s.mem (s.desc .rx q.toNat x.cur)
    let next := (x.cur + 1) % x.n
    let len := lengthOf w
    let lenBad := w.getLsbD 21 || w.getLsbD 19 || decide (s.dev.maxfrm + s.hdrLen < len) || decide (len ≤ s.hdrLen)
    let bad := lenBad || w.getLsbD 20 || w.getLsbD 18 || w.getLsbD 17 || w.getLsbD 16
    ctx.toNat < numBanks → Memory.wf s.mem → s.rxUsable q.toNat → s.dev.devState = .up →
    1 ≤ (s.bank ctx.toNat).arg0.toNat → (s.bank ctx.toNat).arg0.toNat < 2 ^ 32 →
    w.getLsbD 31 = false → s.rxEntry q.toNat x.cur = .buf h → s.buf h = some b →
    (next = x.cur ∨ (readWord s.mem (s.desc .rx q.toNat next)).getLsbD 31 = true) →
    (bad = true ∨ (bad = false ∧ (s.bank ctx.toNat).localList = [] ∧ s.pool.global = [] ∧ s.pool.lock = .free ∧
      ∃ rest, s.env.bufAnswers = none :: rest)) →
    ∃ t : State, exec (.rxPoll ctx q) s = .next t ∧
      t.bank ctx.toNat = { s.bank ctx.toNat with status := .ok, rval0 := 1, rval1 := 1, busy := false, op := none } ∧
      (∀ c, c ≠ ctx.toNat → t.bank c = s.bank c) ∧
      t.rx q.toNat = { x with cur := next } ∧ (∀ q', q' ≠ q.toNat → t.rx q' = s.rx q') ∧
      t.buf h = some { b with mapped := .fromDevice } ∧ (∀ y, y ≠ h → t.buf y = s.buf y) ∧
      readDWord t.mem (s.desc .rx q.toNat x.cur + 8) = b.info.phys ∧
      readWord t.mem (s.desc .rx q.toNat x.cur) = (if x.cur + 1 = x.n then 0xB0000000 else 0x90000000) ∧
      (∀ a, ¬ inDescriptor (s.desc .rx q.toNat x.cur) a → readByte t.mem a = readByte s.mem a) ∧
      bankGet t.stats 0 0 = bankGet s.stats 0 0 + (if lenBad then 1 else 0) ∧
      bankGet t.stats 0 1 = bankGet s.stats 0 1 + (if w.getLsbD 18 then 1 else 0) ∧
      bankGet t.stats 0 2 = bankGet s.stats 0 2 + (if w.getLsbD 17 then 1 else 0) ∧
      bankGet t.stats 0 3 = bankGet s.stats 0 3 + (if w.getLsbD 16 then 1 else 0) ∧
      bankGet t.stats 0 4 = bankGet s.stats 0 4 ∧ bankGet t.stats 0 5 = bankGet s.stats 0 5 ∧
      bankGet t.stats 0 6 = bankGet s.stats 0 6 + (if bad then 0 else 1) ∧
      bankGet t.stats 0 7 = bankGet s.stats 0 7 + (if w.getLsbD 20 then 1 else 0) ∧
      t.env = { s.env with
        bufAnswers := if bad then s.env.bufAnswers else s.env.bufAnswers.tail } ∧
      t = { s with mem := t.mem, rxq := t.rxq, bufs := t.bufs, banks := t.banks, stats := t.stats, env := t.env }

/-- 43 R239, R250, 60 R354 to R356: a poll that finds a completed slot without its handle records the fault, asks for
the reset cycle and is abandoned with the queue as it was. `exec` of a micro-operation: log 12. -/
def Obligations.PollFaultRecorded : Prop :=
  ∀ (ctx q : BitVec 8) (s : State), s.dev.devState = .up → 1 ≤ (s.bank ctx.toNat).arg0.toNat →
    (s.bank ctx.toNat).arg0.toNat < 2 ^ 32 →
    (s.rxUsable q.toNat → (readWord s.mem (s.desc .rx q.toNat (s.rx q.toNat).cur)).getLsbD 31 = false →
      s.rxEntry q.toNat (s.rx q.toNat).cur = .empty →
      exec (.rxPoll ctx q) s = .next
        ((s.modDev fun d => { d with lastErr := .rxNoHandle, resetPending := true }).finish ctx.toNat
          { code := .errFatal, rval0 := some 0, rval1 := some 0 })) ∧
    (s.txUsable q.toNat → (s.tx q.toNat).free ≠ (s.tx q.toNat).n →
      (∀ h nbd, s.txEntry q.toNat (s.tx q.toNat).dirty ≠ .head h nbd) →
      exec (.txPoll ctx q) s = .next
        ((s.modDev fun d => { d with lastErr := .txNoHandle, resetPending := true }).finish ctx.toNat
          { code := .errFatal, rval0 := some 0, rval1 := some 0 }))

/-- 43 R254 to R262: an enabled `GROUP_POLL` over usable queues, with the locks free and an allocator that keeps its
contract, comes to an end with `poll_running` clear and the group's events acknowledged. Queues, memory, buffers, pool
and counters are as the polls of the group's transmit queues and then of its receive queues leave them, each ascending
and with the whole budget; `RVAL1` is the sum of their work (each poll as `exec` of its micro-operation: log 12). Done,
all of them: the group is unmasked and the gate idle, or masked and scheduled again. Not done: still scheduled, the mask
untouched. A fault: the gate idle, the mask untouched, the fault recorded and a reset asked for, no other device
register changed. Other groups stay. Where nothing has completed on any queue of the group, it is done with no work:
events acknowledged, unmasked, the gate idle, and nothing else changes. -/
def Obligations.GroupPollEnds : Prop :=
  ∀ (ctx g : BitVec 8) (s : State),
    let x := s.grp g.toNat
    let queues := ((List.range 8).filter fun q => x.txq.getLsbD q).map (fun q => (Kind.tx, q)) ++
      ((List.range 8).filter fun q => x.rxq.getLsbD q).map fun q => (Kind.rx, q)
    ctx.toNat < numBanks → g.toNat < s.numGroups → s.dev.devState = .up → x.pollScheduled = true →
    x.pollRunning = false → 1 ≤ (s.bank ctx.toNat).arg0.toNat → (s.bank ctx.toNat).arg0.toNat < 2 ^ 32 →
    (∀ q, q < 8 → x.rxq.getLsbD q = true → s.rxUsable q) → (∀ q, q < 8 → x.txq.getLsbD q = true → s.txUsable q) →
    (s.locksFree → s.allocatorHonest → 0 < s.params.recycleMax →
      ∃ (t u : State) (done : Option Bool) (total : DWord), exec (.groupPoll ctx g) s = .next t ∧
        pollsRun ctx queues (s.modGrp g.toNat fun y => { y with ievent := 0, pollRunning := true }) u done total ∧
        t = { u with groups := t.groups, banks := t.banks } ∧ (∀ c, c ≠ ctx.toNat → t.bank c = u.bank c) ∧
        t.bank ctx.toNat = { s.bank ctx.toNat with
          status := if done = none then .errFatal else .ok, rval0 := if done = some true then 1 else 0,
          rval1 := total, busy := false, op := none, localList := (u.bank ctx.toNat).localList } ∧
        t.grp g.toNat = { x with ievent := 0, pollRunning := false, imask := (t.grp g.toNat).imask,
                                 pollScheduled := (t.grp g.toNat).pollScheduled } ∧
        (∀ g', g' ≠ g.toNat → t.grp g' = s.grp g') ∧
        (match done with
          | some true => t.dev = s.dev ∧
              ((t.grp g.toNat).imask = 3 ∧ (t.grp g.toNat).pollScheduled = false ∨
                (t.grp g.toNat).imask = 0 ∧ (t.grp g.toNat).pollScheduled = true)
          | some false => t.dev = s.dev ∧ (t.grp g.toNat).imask = x.imask ∧ (t.grp g.toNat).pollScheduled = true
          | none => t.dev = { s.dev with lastErr := t.dev.lastErr, resetPending := true } ∧
              (t.dev.lastErr = .txNoHandle ∨ t.dev.lastErr = .rxNoHandle) ∧
              (t.grp g.toNat).imask = x.imask ∧ (t.grp g.toNat).pollScheduled = false) ∧
        t = { s with mem := t.mem, rxq := t.rxq, txq := t.txq, groups := t.groups, bufs := t.bufs, pool := t.pool,
                     banks := t.banks, dev := t.dev, stats := t.stats, env := t.env }) ∧
    ((∀ q, q < 8 → x.txq.getLsbD q = true → (s.tx q).free = (s.tx q).n) →
      (∀ q, q < 8 → x.rxq.getLsbD q = true → (readWord s.mem (s.desc .rx q (s.rx q).cur)).getLsbD 31 = true) →
      exec (.groupPoll ctx g) s = .next
        ((s.modGrp g.toNat fun y => { y with ievent := 0, imask := 3, pollScheduled := false }).finish ctx.toNat
          { code := .ok, rval0 := some 1, rval1 := some 0 }))

/-- 43 R254, R255: `GROUP_POLL` that is not enabled is `ERR_NOT_PENDING`, one with a budget of 0 or above 32 bits or of
a group that does not exist (log 9) `ERR_BAD_ARG`; neither changes anything else. -/
def Obligations.GroupPollTurnedAway : Prop :=
  ∀ (ctx g : BitVec 8) (s : State),
    let a := (s.bank ctx.toNat).arg0.toNat
    ((s.numGroups ≤ g.toNat ∨ a = 0 ∨ 2 ^ 32 ≤ a) →
      exec (.groupPoll ctx g) s = .next (s.finish ctx.toNat (Result.only .errBadArg))) ∧
    (g.toNat < s.numGroups → 1 ≤ a → a < 2 ^ 32 →
      (s.dev.devState ≠ .up ∨ (s.grp g.toNat).pollScheduled = false ∨ (s.grp g.toNat).pollRunning = true) →
      exec (.groupPoll ctx g) s = .next (s.finish ctx.toNat (Result.only .errNotPending)))

/-! ### The controller -/

/-- 44 R280 to R282, R296: `START` while `DOWN` with a legal configuration, an empty pool and an environment that
answers: every queue has its ring of the configured size and fresh cursors, the engine has every base and size, every
group is registered, unmasked, without events and idle, the engine is enabled, the sizes are those of the MTU, and the
device is `UP` with no reset pending; `LASTERR`, the link, the MTU, the counters, the coalescing pairs, the pool and the
banks stay. -/
def Obligations.StartBringsUp : Prop :=
  ∀ (ctx : BitVec 8) (s : State), ctx.toNat < numBanks →
    s.dev.ctlBusy = false → s.dev.devState = .down → s.pool.init = true → s.configOk = true → s.zeroCopy = false →
    s.poolEmpty → s.pool.lock = .free → s.startAnswered →
    ∃ t : State, exec (.start ctx) s = .next (t.finish ctx.toNat (Result.only .ok)) ∧
      t.dev = { s.dev with devState := .up, resetPending := false, devevent := 0, dmactrl := 2, macctrl := 3,
                           stopAcked := false, maxfrm := maxFrameOf s.params s.dev.mtu,
                           rxBufSize := bufferSizeOf s.params s.dev.mtu s.hdrLen } ∧
      (∀ q, q < s.numTxq →
        t.tx q = { s.tx q with alloc := true, base := (t.tx q).base, n := (s.tx q).size.toNat, fill := 0, dirty := 0,
                               free := (s.tx q).size.toNat, stopped := false,
                               inflight := List.replicate (s.tx q).size.toNat .empty, phase := .readyForWork,
                               pend := 0, elapsed := 0 } ∧
        t.etx q = { base := (t.tx q).base, n := (t.tx q).n, cur := 0, idle := true } ∧ (t.tx q).base.toNat % 16 = 0) ∧
      (∀ q, q < s.numRxq →
        t.rx q = { s.rx q with alloc := true, base := (t.rx q).base, n := (s.rx q).size.toNat, cur := 0,
                               inflight := (t.rx q).inflight, pend := 0, elapsed := 0 } ∧
        t.erx q = { base := (t.rx q).base, n := (t.rx q).n, cur := 0 } ∧ (t.rx q).base.toNat % 16 = 0) ∧
      (∀ g, g < s.numGroups → t.grp g = { s.grp g with ievent := 0, imask := 3, irqRegistered := true,
                                                       pollScheduled := false, pollRunning := false }) ∧
      (∀ g, s.numGroups ≤ g → t.grp g = s.grp g) ∧
      (∀ q, s.numTxq ≤ q → t.tx q = s.tx q) ∧ (∀ q, s.numRxq ≤ q → t.rx q = s.rx q) ∧
      (∀ c, t.bank c = s.bank c) ∧
      t = { s with mem := t.mem, bufs := t.bufs, liveRings := t.liveRings, rxq := t.rxq, txq := t.txq,
                   groups := t.groups, banks := t.banks, dev := t.dev, engRx := t.engRx, engTx := t.engTx,
                   env := t.env }

/-- 44 R280, R299, R304, 40 R166, 10 R26: every RX slot is armed with a buffer of its own after a `START` from an empty
pool, after the restart of a `CHANGE_MTU` and after that of a `RESET_TASK`, where the environment answers. A `START`
with enough buffers of the right capacity in the context's local list takes the slots' buffers from it, in order, slot
after slot and queue after queue, and asks the allocator for none; every other buffer stays. -/
def Obligations.StartArmsEveryRxSlot : Prop :=
  ∀ (ctx : BitVec 8) (s : State), ctx.toNat < numBanks → Memory.wf s.mem →
    s.dev.ctlBusy = false → s.pool.init = true → s.configOk = true → s.zeroCopy = false →
    let armed := fun (i : Instr) => ∃ t : State, exec i s = .next t ∧ (t.bank ctx.toNat).status = .ok ∧ t.rxArmed ∧
      ∀ q, q < s.numRxq → (t.rx q).n = (s.rx q).size.toNat
    let m := (s.bank ctx.toNat).arg0.toNat
    (s.poolEmpty → s.pool.lock = .free →
      (s.dev.devState = .down → s.startAnswered → armed (.start ctx)) ∧
      (∀ ms, s.dev.devState = .up → s.drained → s.stopComing ms →
        (s.dev.resetPending = true → s.startAnswered → armed (.resetTask ctx)) ∧
        (m < 2 ^ 32 → s.params.mtuMin ≤ m → m ≤ s.params.mtuMax →
          (s.modDev fun d => { d with mtu := m }).startAnswered → armed (.changeMtu ctx)))) ∧
    ∀ (l : List Handle) (rings : List DWord), s.dev.devState = .down → s.startProvided rings [] →
      s.dev.rxBufSize = bufferSizeOf s.params s.dev.mtu s.hdrLen → (s.bank ctx.toNat).localList = l → l.Nodup →
      s.startBufferCount ≤ l.length →
      (∀ h ∈ l, ∃ b, s.buf h = some b ∧ b.live = true ∧ b.info.capacity = s.startCapacity) →
      ∃ t : State, exec (.start ctx) s = .next t ∧
        t.bank ctx.toNat = { s.bank ctx.toNat with status := .ok, busy := false, op := none,
                                                   localList := l.drop s.startBufferCount } ∧
        t.rxArmed ∧ (∀ q, q < s.numRxq → (t.rx q).n = (s.rx q).size.toNat ∧
          ∀ i, i < (s.rx q).size.toNat → ∃ h,
            l[((List.range q).map fun p => (s.rx p).size.toNat).sum + i]? = some h ∧ t.rxEntry q i = .buf h) ∧
        t.pool = s.pool ∧ t.env.bufAnswers = s.env.bufAnswers ∧
        ∀ y, y ∉ l.take s.startBufferCount → t.buf y = s.buf y

/-- 44 R279 to R281, R283, R285, V-CTL-6 to V-CTL-8: the results of `START` other than `OK`, in the order of its tests.
`ERR_STATE`, `ERR_BAD_CONFIG` and `ERR_UNSUPPORTED` change nothing. Where the allocator has no memory for the first ring
it is `ERR_OUT_OF_MEMORY`: only the sizes of the MTU are in force, the masks clear and the answer used up. Where it has
none for a later ring or a receive buffer (`ERR_OUT_OF_MEMORY`), or a line is not registered (`ERR_IRQ`), everything is
unwound: no ring is live, every queue is as before or has its ring registers at reset, every buffer obtained is `Freed`,
not live and not mapped, every line below the count is masked and released, the device is `DOWN` and was never
enabled; other buffers, the bytes outside the freed rings, the pool and the banks stay. This from an empty pool, where
no ring was there before. What the unwinding leaves as `START` wrote it: log 39; the bytes of a freed ring: log 38. -/
def Obligations.StartTurnedAway : Prop :=
  ∀ (ctx : BitVec 8) (s : State),
    (s.dev.ctlBusy = true ∨ s.dev.devState ≠ .down ∨ s.pool.init = false →
      exec (.start ctx) s = .next (s.finish ctx.toNat (Result.only .errState))) ∧
    (s.dev.ctlBusy = false → s.dev.devState = .down → s.pool.init = true →
      (s.configOk = false → exec (.start ctx) s = .next (s.finish ctx.toNat (Result.only .errBadConfig))) ∧
      (s.configOk = true → s.zeroCopy = true →
        exec (.start ctx) s = .next (s.finish ctx.toNat (Result.only .errUnsupported))) ∧
      (s.configOk = true → s.zeroCopy = false → s.poolEmpty → (∀ k q, s.ringAlloc k q = false) →
        (∀ q i, s.rxEntry q i = .empty) →
        (∀ rest, s.env.ringAnswers = none :: rest → (∀ g, (s.grp g).irqRegistered = false) →
          ∃ t : State, exec (.start ctx) s = .next (t.finish ctx.toNat (Result.only .errOutOfMemory)) ∧
            (∀ g, t.grp g = { s.grp g with imask := if g < s.numGroups then 0 else (s.grp g).imask }) ∧
            t.dev = { s.dev with maxfrm := maxFrameOf s.params s.dev.mtu,
                                 rxBufSize := bufferSizeOf s.params s.dev.mtu s.hdrLen } ∧
            t.env = { s.env with ringAnswers := rest } ∧ s.sameBytes t ∧
            t = { s with groups := t.groups, dev := t.dev, env := t.env }) ∧
        ∀ rings bufs code left, s.liveRings = [] → Memory.wf s.mem → s.pool.lock = .free →
          s.startFails rings bufs code left →
          ∃ t : State, exec (.start ctx) s = .next (t.finish ctx.toNat (Result.only code)) ∧ t.liveRings = [] ∧
            (∀ b ∈ bufs, t.live b.1 = false ∧ t.owner b.1 = some .freed ∧ t.mapping b.1 = .none) ∧
            (∀ y, y ∉ bufs.map Prod.fst → t.buf y = s.buf y) ∧
            (∀ q, t.rx q = s.rx q ∨ t.rx q = { s.rx q with alloc := false, base := 0, n := 0, cur := 0, inflight := [],
                                                           pend := 0, elapsed := 0 }) ∧
            (∀ q, t.tx q = s.tx q ∨ t.tx q = { s.tx q with alloc := false, base := 0, n := 0, fill := 0, dirty := 0,
                                                           free := 0, stopped := false, inflight := [],
                                                           phase := .readyForWork, pend := 0, elapsed := 0 }) ∧
            (∀ g, t.grp g = if g < s.numGroups then
              { s.grp g with imask := 0, irqRegistered := false, ievent := (t.grp g).ievent,
                             pollScheduled := (t.grp g).pollScheduled, pollRunning := (t.grp g).pollRunning }
              else s.grp g) ∧
            (code = .errOutOfMemory → t.engRx = s.engRx ∧ t.engTx = s.engTx ∧
              ∀ g, g < s.numGroups → t.grp g = { s.grp g with imask := 0, irqRegistered := false }) ∧
            t.dev = { s.dev with maxfrm := maxFrameOf s.params s.dev.mtu,
                                 rxBufSize := bufferSizeOf s.params s.dev.mtu s.hdrLen } ∧
            (∀ a, (∀ r ∈ s.ringRanges rings, a < r.1 ∨ r.1 + r.2 ≤ a) → readByte t.mem a = readByte s.mem a) ∧
            t.env = left ∧
            t = { s with mem := t.mem, bufs := t.bufs, liveRings := t.liveRings, rxq := t.rxq, txq := t.txq,
                         groups := t.groups, dev := t.dev, engRx := t.engRx, engTx := t.engTx, env := t.env }))

/-- 44 R287, R288, R293, R294, 40 R165, 45 R326, R333: `HALT` of a device that is not `DOWN`, with no operation of its
own to wait for and a graceful stop that the engine acknowledges: the device is `DOWN`, the engine disabled and idle, no
ring is allocated, every queue register of a ring and every gate and line is back at its reset value, the buffers of the
RX slots and of the TX frames are freed, unmapped and no longer live if they had one reference, and the rings have gone
back to the allocator; other buffers and rings, the pool, the counters, the coalescing pairs, `LASTERR`, the MTU, the
link and every byte of memory stay (those of the freed rings and buffers: log 38). -/
def Obligations.HaltStopsAndFrees : Prop :=
  ∀ (ctx : BitVec 8) (s : State) (ms : List Move),
    s.dev.ctlBusy = false → s.dev.devState ≠ .down → s.drained → s.stopComing ms →
    ∃ t : State, exec (.halt ctx) s = .next (t.finish ctx.toNat (Result.only .ok)) ∧ t.agenda = ms ∧
      t.dev = { s.dev with devState := .down, dmactrl := 0, macctrl := 0, devevent := 0, idlestat := 3,
                           stopAcked := false, haltTimerExpired := false, haltWaiting := false } ∧
      (∀ g, g < s.numGroups → t.grp g = { s.grp g with ievent := 0, imask := 0, irqRegistered := false,
                                                       pollScheduled := false }) ∧
      (∀ g, s.numGroups ≤ g → t.grp g = s.grp g) ∧
      (∀ q, q < s.numTxq → (s.tx q).alloc = true →
        t.tx q = { s.tx q with alloc := false, base := 0, n := 0, fill := 0, dirty := 0, free := 0, stopped := false,
                               inflight := [] } ∧
        ∀ i h nbd, s.txEntry q i = .head h nbd → t.owner h = (s.buf h).map (fun _ => .freed) ∧
          (t.buf h).map (·.mapped) = (s.buf h).map (fun _ => .none) ∧
          ((s.buf h).map (·.info.refs) = some 1 → t.live h = false)) ∧
      (∀ q, q < s.numRxq → (s.rx q).alloc = true →
        t.rx q = { s.rx q with alloc := false, base := 0, n := 0, cur := 0, inflight := [] } ∧
        ∀ i h, s.rxEntry q i = .buf h → t.owner h = (s.buf h).map (fun _ => .freed) ∧
          (t.buf h).map (·.mapped) = (s.buf h).map (fun _ => .none) ∧
          ((s.buf h).map (·.info.refs) = some 1 → t.live h = false)) ∧
      (∀ q, (s.numTxq ≤ q ∨ (s.tx q).alloc = false) → t.tx q = s.tx q) ∧
      (∀ q, (s.numRxq ≤ q ∨ (s.rx q).alloc = false) → t.rx q = s.rx q) ∧
      (∀ h, (∀ q i nbd, q < s.numTxq → (s.tx q).alloc = true → s.txEntry q i ≠ .head h nbd) →
        (∀ q i, q < s.numRxq → (s.rx q).alloc = true → s.rxEntry q i ≠ .buf h) → t.buf h = s.buf h) ∧
      (∀ r, r ∈ t.liveRings ↔ r ∈ s.liveRings ∧
        (∀ q, q < s.numTxq → (s.tx q).alloc = true → r.1 ≠ (s.tx q).base.toNat) ∧
        ∀ q, q < s.numRxq → (s.rx q).alloc = true → r.1 ≠ (s.rx q).base.toNat) ∧ s.sameBytes t ∧
      t = { s with bufs := t.bufs, liveRings := t.liveRings, rxq := t.rxq, txq := t.txq, groups := t.groups,
                   dev := t.dev, agenda := ms }

/-- 44 R290, R292 to R294, 45 R326, R340, 60 R356: how `HALT` judges its stop. Where the acknowledgment is reliable and
the halt timer expires before it, `FAULT_STOP_TIMEOUT` is recorded. Where it is unreliable, the acknowledgment or the
timer ends the first wait and the idle bits alone decide: both set, also by an engine that acknowledges without `GSC`,
no fault is recorded; not both set when the timer expires, `FAULT_STOP_TIMEOUT` is. No reset is asked for, and the
device ends `DOWN` with every ring freed and every line masked and released all the same. That the bytes of the freed
rings stay is the model's choice (log 38). -/
def Obligations.HaltTimesOut : Prop :=
  ∀ (ctx : BitVec 8) (s : State) (ms : List Move),
    s.dev.ctlBusy = false → s.dev.devState ≠ .down → s.drained → s.dev.devevent = 0 →
    let down := fun (expired : Bool) (err : FaultCode) =>
      ∃ t : State, exec (.halt ctx) s = .next (t.finish ctx.toNat (Result.only .ok)) ∧ t.agenda = ms ∧
        t.dev = { s.dev with devState := .down, dmactrl := 0, macctrl := 0, devevent := 0, idlestat := 3,
                             stopAcked := false, haltTimerExpired := expired, haltWaiting := false,
                             lastErr := err } ∧
        s.tornDown t ∧ s.sameBytes t
    (s.stopAckUnreliable = false → s.agenda = .haltTimeout :: ms → down true .stopTimeout) ∧
    (s.stopAckUnreliable = true →
      (s.agenda = .haltTimeout :: ms → down true (if s.dev.idlestat = 3 then s.dev.lastErr else .stopTimeout)) ∧
      (s.dev.dmactrl = 2 → s.dev.stopAcked = false →
        (s.agenda = .stopAck true :: ms → down false s.dev.lastErr) ∧
        (s.agenda = .stopAck false :: .haltTimeout :: ms → down true s.dev.lastErr)))

/-- 44 R295 to R297: `CHANGE_MTU` with a legal MTU while `DOWN` changes the three size registers and, where the buffer
size changes and there is a pool, frees every pooled buffer, no longer live if it had one reference; no byte of memory
(those of a freed buffer: log 38) and nothing else changes. -/
def Obligations.ChangeMtuWhileDown : Prop :=
  ∀ (ctx : BitVec 8) (s : State),
    let m := (s.bank ctx.toNat).arg0.toNat
    let size := bufferSizeOf s.params m s.hdrLen
    ctx.toNat < numBanks → m < 2 ^ 32 → s.params.mtuMin ≤ m → m ≤ s.params.mtuMax → s.dev.ctlBusy = false →
    s.dev.devState = .down →
    ∃ t : State, exec (.changeMtu ctx) s = .next (t.finish ctx.toNat (Result.only .ok)) ∧
      t.dev = { s.dev with mtu := m, maxfrm := m + s.params.frameOverhead, rxBufSize := size } ∧
      ((size = s.dev.rxBufSize ∨ s.pool.init = false) → t = { s with dev := t.dev }) ∧
      (size ≠ s.dev.rxBufSize → s.pool.init = true →
        t.pool = { s.pool with global := [] } ∧
        (∀ c, t.bank c = { s.bank c with localList := if c < s.params.numCpus then [] else (s.bank c).localList }) ∧
        (∀ h, (h ∈ s.pool.global ∨ ∃ c, c < s.params.numCpus ∧ h ∈ (s.bank c).localList) →
          t.owner h = (s.buf h).map (fun _ => .freed) ∧
          ((s.buf h).map (·.info.refs) = some 1 → t.live h = false)) ∧
        (∀ h, h ∉ s.pool.global → (∀ c, c < s.params.numCpus → h ∉ (s.bank c).localList) → t.buf h = s.buf h)) ∧
      s.sameBytes t ∧ t = { s with pool := t.pool, banks := t.banks, bufs := t.bufs, dev := t.dev }

/-- 44 R295 to R299: `CHANGE_MTU` with a legal MTU on a device that is `UP`, a graceful stop that is acknowledged, an
empty pool and an environment that answers the restart with the new sizes: the device is `UP` again with the new MTU and
the sizes it gives, every queue has a fresh ring and so has the engine, every group is registered and unmasked;
`LASTERR`, the link, the configuration, the pool, the counters, the coalescing pairs and the banks stay. -/
def Obligations.ChangeMtuWhileUp : Prop :=
  ∀ (ctx : BitVec 8) (s : State) (ms : List Move), ctx.toNat < numBanks →
    let m := (s.bank ctx.toNat).arg0.toNat
    m < 2 ^ 32 → s.params.mtuMin ≤ m → m ≤ s.params.mtuMax → s.dev.ctlBusy = false → s.dev.devState = .up →
    s.drained → s.stopComing ms → s.pool.init = true → s.configOk = true → s.zeroCopy = false → s.poolEmpty →
    s.pool.lock = .free → (s.modDev fun d => { d with mtu := m }).startAnswered →
    ∃ t : State, exec (.changeMtu ctx) s = .next (t.finish ctx.toNat (Result.only .ok)) ∧ t.agenda = ms ∧
      t.dev = { s.dev with devState := .up, resetPending := false, devevent := 0, dmactrl := 2, macctrl := 3,
                           idlestat := 3, stopAcked := false, haltTimerExpired := false, haltWaiting := false,
                           mtu := m, maxfrm := m + s.params.frameOverhead,
                           rxBufSize := bufferSizeOf s.params m s.hdrLen } ∧
      (∀ q, q < s.numTxq →
        t.tx q = { s.tx q with alloc := true, base := (t.tx q).base, n := (s.tx q).size.toNat, fill := 0, dirty := 0,
                               free := (s.tx q).size.toNat, stopped := false,
                               inflight := List.replicate (s.tx q).size.toNat .empty, pend := 0, elapsed := 0 } ∧
        t.etx q = { base := (t.tx q).base, n := (t.tx q).n, cur := 0, idle := true }) ∧
      (∀ q, q < s.numRxq →
        t.rx q = { s.rx q with alloc := true, base := (t.rx q).base, n := (s.rx q).size.toNat, cur := 0,
                               inflight := (t.rx q).inflight, pend := 0, elapsed := 0 } ∧
        t.erx q = { base := (t.rx q).base, n := (t.rx q).n, cur := 0 }) ∧
      (∀ g, g < s.numGroups → t.grp g = { s.grp g with ievent := 0, imask := 3, irqRegistered := true,
                                                       pollScheduled := false }) ∧
      (∀ c, t.bank c = s.bank c) ∧ t.pool = s.pool ∧ t.stats = s.stats

/-- 44 R295, R299, 60 R356: `CHANGE_MTU` turned away: an operand above 32 bits is `ERR_BAD_ARG`, an MTU out of bounds
`ERR_INVALID_MTU`, another controller-level operation in progress `ERR_STATE`, all without effect; and where the
restart of a device that was `UP` fails for want of memory, the code of the start is returned, `FAULT_RESTART_FAILED`
recorded, the new MTU kept and the device `DOWN`. That the bytes of the freed rings stay is the model's choice
(log 38). -/
def Obligations.ChangeMtuFailures : Prop :=
  ∀ (ctx : BitVec 8) (s : State),
    let m := (s.bank ctx.toNat).arg0.toNat
    (2 ^ 32 ≤ m → exec (.changeMtu ctx) s = .next (s.finish ctx.toNat (Result.only .errBadArg))) ∧
    (m < 2 ^ 32 → (m < s.params.mtuMin ∨ s.params.mtuMax < m) →
      exec (.changeMtu ctx) s = .next (s.finish ctx.toNat (Result.only .errInvalidMtu))) ∧
    (m < 2 ^ 32 → s.params.mtuMin ≤ m → m ≤ s.params.mtuMax →
      (s.dev.ctlBusy = true → exec (.changeMtu ctx) s = .next (s.finish ctx.toNat (Result.only .errState))) ∧
      ∀ ms rest, s.dev.ctlBusy = false → s.dev.devState = .up → s.drained → s.stopComing ms → s.configOk = true →
        s.zeroCopy = false → s.env.ringAnswers = none :: rest →
        ∃ t : State, exec (.changeMtu ctx) s = .next (t.finish ctx.toNat (Result.only .errOutOfMemory)) ∧
          t.dev.devState = .down ∧ t.dev.lastErr = .restartFailed ∧ t.dev.mtu = m ∧ t.dev.ctlBusy = false ∧
          t.dev.resetPending = s.dev.resetPending ∧ (∀ q, q < s.numTxq → (t.tx q).alloc = false) ∧
          (∀ q, q < s.numRxq → (t.rx q).alloc = false) ∧ s.sameBytes t)

/-- 44 R303, R304, 70 R405, 60 R356, V-RST-1, V-RST-2: `RESET_TASK` with a reset pending on a device that is `UP`, with
a graceful stop that is acknowledged. With an empty pool and an environment that answers the restart: the device is `UP`
again with no reset pending, every queue has a fresh ring and so has the engine, every group is registered and unmasked;
the configuration, `LASTERR`, the MTU, the link, the pool, the counters, the coalescing pairs and the banks stay. Where
the allocator has no memory for the restart: `ERR_OUT_OF_MEMORY`, `FAULT_RESTART_FAILED` recorded, no reset pending, the
device `DOWN` with every ring freed and every line masked and released (the bytes of the freed rings: log 38). -/
def Obligations.ResetTaskRestarts : Prop :=
  ∀ (ctx : BitVec 8) (s : State) (ms : List Move), ctx.toNat < numBanks →
    s.dev.resetPending = true → s.dev.ctlBusy = false → s.dev.devState = .up → s.drained → s.stopComing ms →
    s.configOk = true → s.zeroCopy = false →
    (s.pool.init = true → s.poolEmpty → s.pool.lock = .free → s.startAnswered →
      ∃ t : State, exec (.resetTask ctx) s = .next (t.finish ctx.toNat (Result.only .ok)) ∧ t.agenda = ms ∧
        t.dev = { s.dev with devState := .up, resetPending := false, devevent := 0, dmactrl := 2, macctrl := 3,
                             idlestat := 3, stopAcked := false, haltTimerExpired := false, haltWaiting := false,
                             maxfrm := maxFrameOf s.params s.dev.mtu,
                             rxBufSize := bufferSizeOf s.params s.dev.mtu s.hdrLen } ∧
        (∀ q, q < s.numTxq →
          t.tx q = { s.tx q with alloc := true, base := (t.tx q).base, n := (s.tx q).size.toNat, fill := 0, dirty := 0,
                                 free := (s.tx q).size.toNat, stopped := false,
                                 inflight := List.replicate (s.tx q).size.toNat .empty, pend := 0, elapsed := 0 } ∧
          t.etx q = { base := (t.tx q).base, n := (t.tx q).n, cur := 0, idle := true }) ∧
        (∀ q, q < s.numRxq →
          t.rx q = { s.rx q with alloc := true, base := (t.rx q).base, n := (s.rx q).size.toNat, cur := 0,
                                 inflight := (t.rx q).inflight, pend := 0, elapsed := 0 } ∧
          t.erx q = { base := (t.rx q).base, n := (t.rx q).n, cur := 0 }) ∧
        (∀ g, g < s.numGroups → t.grp g = { s.grp g with ievent := 0, imask := 3, irqRegistered := true,
                                                         pollScheduled := false }) ∧
        (∀ c, t.bank c = s.bank c) ∧ t.pool = s.pool ∧ t.stats = s.stats) ∧
    ∀ rest, s.env.ringAnswers = none :: rest →
      ∃ t : State, exec (.resetTask ctx) s = .next (t.finish ctx.toNat (Result.only .errOutOfMemory)) ∧
        t.agenda = ms ∧
        t.dev = { s.dev with devState := .down, resetPending := false, devevent := 0, dmactrl := 0, macctrl := 0,
                             idlestat := 3, stopAcked := false, haltTimerExpired := false, haltWaiting := false,
                             lastErr := .restartFailed, maxfrm := maxFrameOf s.params s.dev.mtu,
                             rxBufSize := bufferSizeOf s.params s.dev.mtu s.hdrLen } ∧
        s.tornDown t ∧ s.sameBytes t

/-- 44 R279, R287, R294, R303, R304: where there is nothing to halt. `HALT` while `DOWN` is `OK` and changes nothing
else: a second `HALT` frees nothing twice; while another controller-level operation runs it is `ERR_STATE`. `RESET_TASK`
that is not enabled is `ERR_NOT_PENDING` without effect; on a device that is `DOWN` it withdraws the request and stays
down. -/
def Obligations.HaltAndResetWithNothingToHalt : Prop :=
  ∀ (ctx : BitVec 8) (s : State),
    (s.dev.ctlBusy = false → s.dev.devState = .down →
      exec (.halt ctx) s = .next (s.finish ctx.toNat (Result.only .ok))) ∧
    (s.dev.ctlBusy = true → exec (.halt ctx) s = .next (s.finish ctx.toNat (Result.only .errState))) ∧
    ((s.dev.resetPending = false ∨ s.dev.ctlBusy = true) →
      exec (.resetTask ctx) s = .next (s.finish ctx.toNat (Result.only .errNotPending))) ∧
    (s.dev.resetPending = true → s.dev.ctlBusy = false → s.dev.devState = .down →
      exec (.resetTask ctx) s = .next
        ((s.modDev fun d => { d with resetPending := false }).finish ctx.toNat (Result.only .ok)))

/-! ### The engine, the coalescer and the registers -/

/-- 45 R322, R323: a frame that arrives on a slot the engine owns is stored in its buffer and the descriptor handed back
with the error flags and the length, `WRAP` and `INTERRUPT` kept; a frame longer than the buffer is stored cut to it,
with `TRUNC` (log 22); the engine's cursor moves; the coalescer gets a pulse where the descriptor asks for one; no other
byte changes. On a slot software owns the frame is lost without a trace. -/
def Obligations.RxFillHandsSlotBack : Prop :=
  ∀ (s : State) (q : Nat) (errs : Half) (bytes : List Byte) (ms : List Move),
    let a := (s.erx q).base.toNat + 16 * (s.erx q).cur
    let w := readWord s.mem a
    let buf := (readDWord s.mem (a + 8)).toNat
    let stored := bytes.take s.dev.rxBufSize
    let flags : Half := errs ||| (if s.dev.rxBufSize < bytes.length then 1 else 0)
    Memory.wf s.mem → s.agenda = .rxFill q errs bytes :: ms → s.engineRxEnabled = true → q < s.numRxq →
    1 ≤ stored.length → errs &&& ~~~0x003F = 0 → a + 16 ≤ addressSpace →
    (w.getLsbD 31 = false → step s = .next (s.setAgenda ms)) ∧
    (w.getLsbD 31 = true → buf + stored.length ≤ addressSpace → (buf + stored.length ≤ a ∨ a + 16 ≤ buf) →
      ∃ u : State, step s = .next (if w.getLsbD 28 then u.coalescePulse .rx q else u) ∧
        readWord u.mem a = ((statusOf w &&& 0x3000) ||| flags) ++ BitVec.ofNat 16 stored.length ∧
        (∀ i, (hi : i < stored.length) → readByte u.mem (buf + i) = stored[i]) ∧
        (∀ x, (x < a ∨ a + 4 ≤ x) → (x < buf ∨ buf + stored.length ≤ x) → readByte u.mem x = readByte s.mem x) ∧
        u.erx q = { s.erx q with cur := if w.getLsbD 29 then 0 else (s.erx q).cur + 1 } ∧
        (∀ q', q' ≠ q → u.erx q' = s.erx q') ∧
        u = { s with mem := u.mem, engRx := u.engRx, agenda := ms })

/-- 45 R324: the engine that looks at a TX descriptor it owns hands it back with `READY` clear, `WRAP`, `INTERRUPT`,
`LAST` and the length kept, the error flags on the last descriptor alone; its cursor moves; the coalescer gets a pulse
where the descriptor asks for one; no other byte changes. On a descriptor that is not ready it goes idle. -/
def Obligations.TxConsumeHandsSlotBack : Prop :=
  ∀ (s : State) (q : Nat) (errs : Half) (ms : List Move),
    let a := (s.etx q).base.toNat + 16 * (s.etx q).cur
    let w := readWord s.mem a
    Memory.wf s.mem → s.agenda = .txConsume q errs :: ms → s.engineTxEnabled = true → (s.etx q).idle = false →
    q < s.numTxq → errs &&& ~~~0x00C2 = 0 → a + 16 ≤ addressSpace →
    (w.getLsbD 31 = false →
      step s = .next ((s.setAgenda ms).modEtx q fun e => { e with idle := true })) ∧
    (w.getLsbD 31 = true →
      ∃ u : State, step s = .next (if w.getLsbD 28 then u.coalescePulse .tx q else u) ∧
        readWord u.mem a = ((statusOf w &&& 0x3800) ||| (if w.getLsbD 27 then errs else 0)) ++ w.extractLsb' 0 16 ∧
        (∀ x, (x < a ∨ a + 4 ≤ x) → readByte u.mem x = readByte s.mem x) ∧
        u.etx q = { s.etx q with cur := if w.getLsbD 29 then 0 else (s.etx q).cur + 1 } ∧
        (∀ q', q' ≠ q → u.etx q' = s.etx q') ∧
        u = { s with mem := u.mem, engTx := u.engTx, agenda := ms })

/-- 45 R320, R325 to R327: with both control registers 0, or once it has acknowledged a stop, no step of the engine
changes anything; a graceful stop that was asked for is acknowledged with both idle bits, and with `GSC` where the
acknowledgment is reliable; while the transmit side is enabled a poll tick wakes a ring; while the engine is enabled its
idle bits say what it likes (either side: log 24). A move that is not enabled is skipped (log 17). -/
def Obligations.EngineControlled : Prop :=
  ∀ (s : State) (ms : List Move),
    (∀ m : Move, s.agenda = m :: ms → ((s.dev.dmactrl = 0 ∧ s.dev.macctrl = 0) ∨ s.dev.stopAcked = true) →
      ((∃ q errs bytes, m = .rxFill q errs bytes) ∨ (∃ q errs, m = .txConsume q errs) ∨ (∃ q, m = .pollTick q) ∨
        (∃ b, m = .stopAck b) ∨ ∃ v, m = .idleUpdate v) → step s = .next (s.setAgenda ms)) ∧
    (∀ gsc : Bool, s.agenda = .stopAck gsc :: ms → s.dev.dmactrl = 3 → s.dev.stopAcked = false →
      step s = .next ((s.setAgenda ms).modDev fun d =>
        { d with stopAcked := true, idlestat := 3,
                 devevent := if gsc = true ∨ s.stopAckUnreliable = false then 1 else d.devevent })) ∧
    (s.dev.dmactrl.getLsbD 1 = true → s.dev.stopAcked = false →
      (∀ q, s.agenda = .pollTick q :: ms → s.dev.macctrl.getLsbD 1 = true →
        step s = .next ((s.setAgenda ms).modEtx q fun e => { e with idle := false })) ∧
      ∀ v, s.agenda = .idleUpdate v :: ms → s.dev.macctrl ≠ 0 →
        step s = .next ((s.setAgenda ms).modDev fun d => { d with idlestat := v }))

/-- 60 R366 to R368, R370: a pulse on a queue that one group reports: the count rises by one, saturating at 255; when it
has reached `max_frames`, or the ticks `max_delay`, the group's event bit of that kind is set and the counters restart;
otherwise no event bit changes. A tick: of every queue with a pending pulse the ticks rise by one, saturating at 65535;
those that are due restart and set the event bit of their group; a queue without one and everything else stays. The
tick acts on all 8 queues of each kind: log 31; the group of a queue that no one group reports: log 10. -/
def Obligations.CoalescerFiresAtThreshold : Prop :=
  (∀ (s : State) (k : Kind) (q g : Nat), q < 8 → s.groupsOf k q = [g] →
    let p := min 255 (s.pend k q + 1)
    let e := if s.pend k q = 0 then 0 else s.elapsed k q
    let t := s.coalescePulse k q
    ((s.ic k q).maxFrames.toNat ≤ p ∨ (s.ic k q).maxDelay.toNat ≤ e →
      t.pend k q = 0 ∧ t.elapsed k q = 0 ∧
      t.grp g = { s.grp g with ievent := (s.grp g).ievent ||| (match k with | .rx => 1 | .tx => 2) } ∧
      (∀ g', g' ≠ g → t.grp g' = s.grp g')) ∧
    (p < (s.ic k q).maxFrames.toNat → e < (s.ic k q).maxDelay.toNat →
      t.pend k q = p ∧ t.elapsed k q = e ∧ t.groups = s.groups) ∧
    t.ic k q = s.ic k q ∧ t = { s with rxq := t.rxq, txq := t.txq, groups := t.groups }) ∧
  ∀ (s : State) (ms : List Move), s.agenda = .coalesceTick :: ms →
    let ticks := fun k q => if s.pend k q = 0 then s.elapsed k q else min 65535 (s.elapsed k q + 1)
    let due := fun k q => s.pend k q ≠ 0 ∧
      ((s.ic k q).maxFrames.toNat ≤ s.pend k q ∨ (s.ic k q).maxDelay.toNat ≤ ticks k q)
    ∃ t : State, step s = .next t ∧
      (∀ k q, t.pend k q = (if due k q then 0 else s.pend k q) ∧ t.elapsed k q = (if due k q then 0 else ticks k q)) ∧
      (∀ q, t.rx q = { s.rx q with pend := t.pend .rx q, elapsed := t.elapsed .rx q } ∧
        t.tx q = { s.tx q with pend := t.pend .tx q, elapsed := t.elapsed .tx q }) ∧
      (∀ g, g < 8 → t.grp g = { s.grp g with ievent := (t.grp g).ievent } ∧
        ((t.grp g).ievent.getLsbD 0 = true ↔
          (s.grp g).ievent.getLsbD 0 = true ∨ ∃ q, q < 8 ∧ due .rx q ∧ s.grpOf .rx q = some g) ∧
        ((t.grp g).ievent.getLsbD 1 = true ↔
          (s.grp g).ievent.getLsbD 1 = true ∨ ∃ q, q < 8 ∧ due .tx q ∧ s.grpOf .tx q = some g)) ∧
      t = { s with rxq := t.rxq, txq := t.txq, groups := t.groups, agenda := ms }

/-- 30 R130, R132, R133, 45 R325, 20 R86, V-REG-4 to V-REG-6: a host write changes nothing when the access is not 32
bits wide and aligned, and, outside the command banks and `TXPOLL`, while the device is not `DOWN` or a controller-level
operation runs; an odd read gives 0. Otherwise a write of `CAPS`, `NQUEUES`, `GRP_RXQ`, `GRP_TXQ`, `IRQ_LINE`, `RSIZE`
or `TSIZE` stores the bits the register has and nothing else, and it reads back with its other bits 0. A write of
`TXPOLL` wakes the TX rings whose bits are set, at any time, stores nothing, and it reads 0. A write of any other
register but the operand registers of the banks, read-only, or of an offset that no register occupies, changes nothing,
in any state (a write of `CMD` is a command: `StepRunsDecodedCommand`). -/
def Obligations.RegisterAccessGuarded : Prop :=
  ∀ (s : State) (o : BitVec 12) (n : Nat) (v : Word),
    ((n ≠ 4 ∨ o.toNat % 4 ≠ 0) → s.writeRegister o n v = s ∧ s.readRegister o n = 0) ∧
    (0x400 ≤ o.toNat → o.toNat ≠ 0x418 → (s.dev.devState ≠ .down ∨ s.dev.ctlBusy = true) →
      s.writeRegister o n v = s) ∧
    ((o.toNat < 0x400 → o.toNat % 0x40 ∉ [0x08, 0x0C, 0x10, 0x14, 0x18, 0x1C]) →
      o.toNat ∉ [0x418, 0x42C, 0x430] →
      (∀ j, j < 8 → o.toNat ∉ [0x508 + 0x20 * j, 0x50C + 0x20 * j, 0x510 + 0x20 * j, 0x608 + 0x20 * j,
        0x708 + 0x20 * j]) → s.writeRegister o n v = s) ∧
    (s.dev.devState = .down → s.dev.ctlBusy = false →
      let stores := fun (r : Nat) (mask : Word) (t : State) => s.writeRegister (BitVec.ofNat 12 r) 4 v = t ∧
        t.readRegister (BitVec.ofNat 12 r) 4 = v &&& mask
      stores 0x42C 0xF (s.modDev fun d => { d with caps := v.setWidth 4 }) ∧
      stores 0x430 0xFFF (s.modDev fun d => { d with nqueues := v.setWidth 12 }) ∧
      ∀ j, j < 8 →
        stores (0x508 + 0x20 * j) 0xFF (s.modGrp j fun g => { g with rxq := v.setWidth 8 }) ∧
        stores (0x50C + 0x20 * j) 0xFF (s.modGrp j fun g => { g with txq := v.setWidth 8 }) ∧
        stores (0x510 + 0x20 * j) 0xFFFFFFFF (s.modGrp j fun g => { g with irqLine := v }) ∧
        stores (0x608 + 0x20 * j) 0xFFFF (s.modRx j fun q => { q with size := v.setWidth 16 }) ∧
        stores (0x708 + 0x20 * j) 0xFFFF (s.modTx j fun q => { q with size := v.setWidth 16 })) ∧
    let t := s.writeRegister 0x418 4 v
    t = { s with engTx := t.engTx } ∧
      (∀ q, q < 8 → t.etx q = { s.etx q with idle := (s.etx q).idle && !v.getLsbD q }) ∧ t.readRegister 0x418 4 = 0

/-- 30 R130 to R132, R134 to R136, 60 R370: the two halves of each operand register are written and read as 32-bit
words, the high one at the lower offset, and make the operand; nothing else changes. What the registers read that are
made of several fields: `DEVSTAT`, and of group or queue `j` `GRP_STAT` with the line's level, `RQSTAT`, `TQSTAT`,
`RXIC` and `TXIC`. -/
def Obligations.OperandRegisterHalves : Prop :=
  (∀ (s : State) (c : Nat) (hi lo : Word), c < numBanks →
    let written := fun (r : Nat) => (s.writeRegister (BitVec.ofNat 12 (0x40 * c + r)) 4 hi).writeRegister
      (BitVec.ofNat 12 (0x40 * c + r + 4)) 4 lo
    written 8 = (s.modBank c fun b => { b with arg0 := hi ++ lo }) ∧
    written 16 = (s.modBank c fun b => { b with arg1 := hi ++ lo }) ∧
    written 24 = (s.modBank c fun b => { b with arg2 := hi ++ lo }) ∧
    ∀ r ∈ [8, 16, 24], (written r).readRegister (BitVec.ofNat 12 (0x40 * c + r)) 4 = hi ∧
      (written r).readRegister (BitVec.ofNat 12 (0x40 * c + r + 4)) 4 = lo) ∧
  ∀ s : State,
    let bit := fun (b : Bool) (i : Nat) => if b then BitVec.twoPow 32 i else 0
    s.readRegister 0x400 4 = (match s.dev.devState with | .down => 0 | .up => 3 | .stopping => 4) +
      bit s.dev.resetPending 3 + bit s.pool.init 4 + bit s.dev.ctlBusy 5 ∧
    ∀ j, j < 8 →
      let group := s.grp j
      let line := group.irqRegistered && decide (group.ievent &&& group.imask ≠ 0)
      let pair := fun (v : Coalesce) => BitVec.ofNat 32 (v.maxFrames.toNat * 2 ^ 16 + v.maxDelay.toNat)
      s.readRegister (BitVec.ofNat 12 (0x514 + 0x20 * j)) 4 =
        bit group.pollScheduled 0 + bit group.pollRunning 1 + bit group.irqRegistered 2 + bit line 3 ∧
      s.readRegister (BitVec.ofNat 12 (0x614 + 0x20 * j)) 4 = bit (s.rx j).alloc 0 ∧
      s.readRegister (BitVec.ofNat 12 (0x71C + 0x20 * j)) 4 = bit (s.tx j).alloc 0 + bit (s.tx j).stopped 1 ∧
      s.readRegister (BitVec.ofNat 12 (0x610 + 0x20 * j)) 4 = pair (s.rx j).ic ∧
      s.readRegister (BitVec.ofNat 12 (0x718 + 0x20 * j)) 4 = pair (s.tx j).ic

/-! ### What every step keeps -/

/-- Every step keeps memory in its canonical form: addresses strictly rising, inside the 64-bit address space of 20 R80,
no entry equal to what an unlisted byte reads as. The form, and that an unlisted byte reads 0, are the model's choice
(log 7; 70 R402 lets a model give any value). -/
def Obligations.StepKeepsMemoryForm : Prop :=
  ∀ s t : State, Memory.wf s.mem → step s = .next t → Memory.wf t.mem

/-- 10 R35, 41 R180, R186, R190: every step keeps every list of the pool within `RECYCLE_MAX`. The operations of the
pool, run with its lock free, keep its lists of distinct live handles, each with its list as its owner. -/
def Obligations.StepKeepsPoolBounds : Prop :=
  (∀ s t : State, s.poolBounded → step s = .next t → t.poolBounded ∧ t.params = s.params) ∧
  ∀ (ctx : BitVec 8) (i : Instr) (s t : State), ctx.toNat < numBanks →
    i ∈ [.poolInit ctx, .poolTeardown ctx, .acquire ctx, .release ctx] → s.pool.lock = .free → s.poolOwned →
    exec i s = .next t → t.poolOwned

/-- 10 R38: every step keeps the coalescer's counters in their ranges. -/
def Obligations.StepKeepsCoalescerRanges : Prop :=
  ∀ s t : State, s.coalescerBounded → step s = .next t → t.coalescerBounded

/-- Every step keeps the buffer table in its order, one entry for a handle. -/
def Obligations.StepKeepsBufferTable : Prop :=
  ∀ s t : State, s.tableSorted → step s = .next t → t.tableSorted

/-- 60 R355: `LASTERR` is never cleared but by reset: no step takes it back to no fault. -/
def Obligations.StepNeverClearsFault : Prop :=
  ∀ s t : State, s.dev.lastErr ≠ .none → step s = .next t → t.dev.lastErr ≠ .none
end

