-- ==== Sys2Proof/Laws/Memory.lean ====
section
/-! SUPPORT. The laws of DMA memory: reading after writing, and that every write keeps the canonical form. -/

namespace Sys2Proof.Machine

open Host (Cell)

/-! ### One byte -/

/-- In a memory all of whose addresses are above `a`, byte `a` is unwritten. -/
theorem readByte_of_below (m : List Cell) (a : Nat) (h : ∀ c ∈ m, a < c.1) : readByte m a = unwrittenByte := by
  induction m with
  | nil => rfl
  | cons c m ih =>
    obtain ⟨b, v⟩ := c
    have hb : a < b := h (b, v) (by simp)
    simp only [readByte]
    rw [if_neg (by omega), ih fun c hc => h c (by simp [hc])]

/-- The addresses after a write are those before it and the one written. -/
theorem mem_writeByte (m : List Cell) (a : Nat) (v : Byte) (c : Cell) (h : c ∈ writeByte m a v) :
    c ∈ m ∨ (c = (a, v) ∧ v ≠ unwrittenByte) := by
  induction m with
  | nil =>
    simp only [writeByte] at h
    split at h
    · cases h
    · simp_all
  | cons d m ih =>
    obtain ⟨b, x⟩ := d
    simp only [writeByte] at h
    split at h
    · split at h
      · exact .inl h
      · rcases List.mem_cons.1 h with h | h
        · exact .inr ⟨h, ‹_›⟩
        · exact .inl h
    · split at h
      · split at h
        · exact .inl (List.mem_cons_of_mem _ h)
        · rcases List.mem_cons.1 h with h | h
          · exact .inr ⟨h, ‹_›⟩
          · exact .inl (List.mem_cons_of_mem _ h)
      · rcases List.mem_cons.1 h with h | h
        · exact .inl (by simp [h])
        · rcases ih h with h | h
          · exact .inl (List.mem_cons_of_mem _ h)
          · exact .inr h

/-- A write keeps the addresses rising. -/
theorem sorted_writeByte (m : List Cell) (a : Nat) (v : Byte) (h : (m.map Prod.fst).Pairwise (· < ·)) :
    ((writeByte m a v).map Prod.fst).Pairwise (· < ·) := by
  induction m with
  | nil =>
    simp only [writeByte]
    split <;> simp
  | cons d m ih =>
    obtain ⟨b, x⟩ := d
    simp only [List.map_cons, List.pairwise_cons] at h
    simp only [writeByte]
    split
    · split
      · simpa [List.pairwise_cons] using h
      · simp only [List.map_cons, List.pairwise_cons]
        refine ⟨?_, h⟩
        intro e he
        rcases List.mem_cons.1 he with he | he
        · omega
        · have := h.1 e he; omega
    · split
      · split
        · exact h.2
        · subst_vars
          simpa [List.pairwise_cons] using h
      · simp only [List.map_cons, List.pairwise_cons]
        refine ⟨?_, ih h.2⟩
        intro e he
        obtain ⟨c, hc, rfl⟩ := List.mem_map.1 he
        rcases mem_writeByte m a v c hc with hc | ⟨rfl, -⟩
        · exact h.1 _ (List.mem_map_of_mem hc)
        · simp; omega

/-- A write keeps the canonical form. -/
theorem wf_writeByte {m : List Cell} {a : Nat} (v : Byte) (h : Memory.wf m) (ha : a < addressSpace) :
    Memory.wf (writeByte m a v) := by
  refine ⟨sorted_writeByte m a v h.1, fun c hc => ?_⟩
  rcases mem_writeByte m a v c hc with hc | ⟨rfl, hv⟩
  · exact h.2 c hc
  · exact ⟨hv, ha⟩

/-- A byte read after a write of one byte. -/
theorem readByte_writeByte (m : List Cell) (a b : Nat) (v : Byte) (h : (m.map Prod.fst).Pairwise (· < ·)) :
    readByte (writeByte m a v) b = if b = a then v else readByte m b := by
  induction m with
  | nil =>
    simp only [writeByte]
    split <;> simp_all [readByte]
  | cons d m ih =>
    obtain ⟨c, x⟩ := d
    simp only [List.map_cons, List.pairwise_cons] at h
    have above : ∀ e ∈ m, c < e.1 := fun e he => h.1 _ (List.mem_map_of_mem he)
    simp only [writeByte]
    split
    · split
      · by_cases hb : b = a
        · subst hb
          rw [if_pos rfl, readByte_of_below _ b, ‹v = _›]
          intro e he
          rcases List.mem_cons.1 he with rfl | he
          · assumption
          · have := above e he; omega
        · rw [if_neg hb]
      · simp only [readByte]
    · split
      · subst_vars
        split
        · by_cases hb : b = c
          · subst hb
            rw [if_pos rfl, readByte_of_below _ b above, ‹v = _›]
          · simp [readByte, hb]
        · by_cases hb : b = c <;> simp [readByte, hb]
      · simp only [readByte, ih h.2]
        by_cases hb : b = c
        · subst hb
          rw [if_pos rfl, if_neg (by omega), if_pos rfl]
        · simp [hb]

/-! ### Consecutive bytes -/

/-- Writing bytes keeps the canonical form. -/
theorem wf_writeBytes {m : List Cell} {a : Nat} (bs : List Byte) (h : Memory.wf m)
    (ha : a + bs.length ≤ addressSpace) : Memory.wf (writeBytes m a bs) := by
  induction bs generalizing m a with
  | nil => exact h
  | cons b bs ih =>
    simp only [List.length_cons] at ha
    exact ih (wf_writeByte b h (by omega)) (by omega)

/-- A byte outside the bytes written is unchanged. -/
theorem readByte_writeBytes_outside (m : List Cell) (a b : Nat) (bs : List Byte)
    (h : (m.map Prod.fst).Pairwise (· < ·)) (hb : b < a ∨ a + bs.length ≤ b) :
    readByte (writeBytes m a bs) b = readByte m b := by
  induction bs generalizing m a with
  | nil => rfl
  | cons x bs ih =>
    simp only [List.length_cons] at hb
    rw [writeBytes, ih _ _ (sorted_writeByte m a x h) (by omega), readByte_writeByte m a b x h, if_neg (by omega)]

/-- A byte inside the bytes written. -/
theorem readByte_writeBytes_inside (m : List Cell) (a i : Nat) (bs : List Byte)
    (h : (m.map Prod.fst).Pairwise (· < ·)) (hi : i < bs.length) :
    readByte (writeBytes m a bs) (a + i) = bs[i] := by
  induction bs generalizing m a i with
  | nil => cases hi
  | cons x bs ih =>
    rw [writeBytes]
    cases i with
    | zero =>
      rw [readByte_writeBytes_outside _ _ _ _ (sorted_writeByte m a x h) (by omega),
        readByte_writeByte m a _ x h]
      simp
    | succ i =>
      have := ih (writeByte m a x) (a + 1) i (sorted_writeByte m a x h) (by simpa using hi)
      rw [show a + (i + 1) = a + 1 + i by omega, this]
      simp

@[simp] theorem wordBytes_length (w : Word) : (wordBytes w).length = 4 := rfl

@[simp] theorem dwordBytes_length (d : DWord) : (dwordBytes d).length = 8 := rfl

/-! ### Words -/

/-- A word read where a word was written. -/
theorem readWord_writeWord (m : List Cell) (a : Nat) (w : Word) (h : (m.map Prod.fst).Pairwise (· < ·)) :
    readWord (writeWord m a w) a = w := by
  have byte : ∀ i (hi : i < 4), readByte (writeBytes m a (wordBytes w)) (a + i) = (wordBytes w)[i]'hi :=
    fun i hi => readByte_writeBytes_inside m a i (wordBytes w) h hi
  have h0 := byte 0 (by omega)
  simp only [Nat.add_zero] at h0
  simp only [readWord, writeWord, h0, byte 1 (by omega), byte 2 (by omega), byte 3 (by omega)]
  simp only [wordBytes, List.getElem_cons_zero, List.getElem_cons_succ]
  apply BitVec.eq_of_getLsbD_eq
  intro i hi
  simp only [BitVec.getLsbD_append, BitVec.getLsbD_extractLsb']
  have : i < 32 := hi
  by_cases h1 : i < 8
  · simp [h1]
  · by_cases h2 : i < 16
    · simp [h1, show i - 8 < 8 by omega, show 8 + (i - 8) = i by omega]
    · by_cases h3 : i < 24
      · simp [h1, show ¬ i - 8 < 8 by omega, show i - 8 - 8 < 8 by omega, show 16 + (i - 8 - 8) = i by omega]
      · simp [h1, show ¬ i - 8 < 8 by omega, show ¬ i - 8 - 8 < 8 by omega, show i - 8 - 8 - 8 < 8 by omega,
          show 24 + (i - 8 - 8 - 8) = i by omega]

/-- A word read apart from the bytes written. -/
theorem readWord_writeBytes_apart (m : List Cell) (a b : Nat) (bs : List Byte)
    (h : (m.map Prod.fst).Pairwise (· < ·)) (hb : b + 4 ≤ a ∨ a + bs.length ≤ b) :
    readWord (writeBytes m a bs) b = readWord m b := by
  simp only [readWord]
  rw [readByte_writeBytes_outside m a b bs h (by omega), readByte_writeBytes_outside m a (b + 1) bs h (by omega),
    readByte_writeBytes_outside m a (b + 2) bs h (by omega), readByte_writeBytes_outside m a (b + 3) bs h (by omega)]

/-- Consecutive writes of bytes as one. -/
theorem writeBytes_append (m : List Cell) (a : Nat) (bs cs : List Byte) :
    writeBytes m a (bs ++ cs) = writeBytes (writeBytes m a bs) (a + bs.length) cs := by
  induction bs generalizing m a with
  | nil => rfl
  | cons b bs ih =>
    simp only [List.cons_append, writeBytes, ih, List.length_cons]
    rw [show a + 1 + bs.length = a + (bs.length + 1) by omega]

/-- Writing bytes keeps the addresses rising. -/
theorem sorted_writeBytes (m : List Cell) (a : Nat) (bs : List Byte) (h : (m.map Prod.fst).Pairwise (· < ·)) :
    ((writeBytes m a bs).map Prod.fst).Pairwise (· < ·) := by
  induction bs generalizing m a with
  | nil => exact h
  | cons b bs ih => exact ih _ _ (sorted_writeByte m a b h)

/-- A doubleword read where a doubleword was written. -/
theorem readDWord_writeDWord (m : List Cell) (a : Nat) (d : DWord) (h : (m.map Prod.fst).Pairwise (· < ·)) :
    readDWord (writeDWord m a d) a = d := by
  have hs := sorted_writeBytes m a (wordBytes (d.extractLsb' 32 32)) h
  simp only [readDWord, writeDWord, dwordBytes, writeBytes_append, wordBytes_length]
  rw [readWord_writeBytes_apart _ _ _ _ hs (by simp)]
  have h1 := readWord_writeWord m a (d.extractLsb' 32 32) h
  have h2 := readWord_writeWord _ (a + 4) (d.extractLsb' 0 32) hs
  simp only [writeWord] at h1 h2
  rw [h1, h2]
  apply BitVec.eq_of_getLsbD_eq
  intro i hi
  simp only [BitVec.getLsbD_append, BitVec.getLsbD_extractLsb']
  by_cases h3 : i < 32
  · simp [h3]
  · simp [h3, show i - 32 < 32 by omega, show 32 + (i - 32) = i by omega]

/-- A doubleword read apart from the bytes written. -/
theorem readDWord_writeBytes_apart (m : List Cell) (a b : Nat) (bs : List Byte)
    (h : (m.map Prod.fst).Pairwise (· < ·)) (hb : b + 8 ≤ a ∨ a + bs.length ≤ b) :
    readDWord (writeBytes m a bs) b = readDWord m b := by
  simp only [readDWord]
  rw [readWord_writeBytes_apart m a b bs h (by omega), readWord_writeBytes_apart m a (b + 4) bs h (by omega)]

/-- A word written keeps the canonical form. -/
theorem wf_writeWord {m : List Cell} {a : Nat} (w : Word) (h : Memory.wf m) (ha : a + 4 ≤ addressSpace) :
    Memory.wf (writeWord m a w) := wf_writeBytes _ h (by simpa using ha)

/-- A doubleword written keeps the canonical form. -/
theorem wf_writeDWord {m : List Cell} {a : Nat} (d : DWord) (h : Memory.wf m) (ha : a + 8 ≤ addressSpace) :
    Memory.wf (writeDWord m a d) := wf_writeBytes _ h (by simpa using ha)

/-- Memory after reset has the canonical form. -/
theorem wf_reset : Memory.wf State.reset.mem := ⟨List.Pairwise.nil, fun _ h => by cases h⟩

end Sys2Proof.Machine
end

