-- ==== Sys2Proof/Laws/State.lean ====
section
/-! SUPPORT. The small lemmas of the state: for every field and every update one lemma, true by rfl, and the reads of
the banks of registers after an update, so that no later proof unfolds a record update. -/

namespace Sys2Proof

/-- Reading a bank after a write of it. -/
theorem bankGet_bankSet {α : Type} {n : Nat} (v : Vector α n) (d x : α) (i j : Nat) :
    bankGet (bankSet v i x) d j = if i = j ∧ i < n then x else bankGet v d j := by
  unfold bankGet bankSet
  by_cases hj : j < n
  · by_cases hi : i = j
    · subst hi; simp [hj]
    · simp [hj, hi]
  · by_cases hi : i = j
    · subst hi; simp [hj]
    · simp [hj, hi]

/-- The last of two writes of one element stands. -/
@[simp] theorem bankSet_bankSet {α : Type} {n : Nat} (v : Vector α n) (x y : α) (i : Nat) :
    bankSet (bankSet v i x) i y = bankSet v i y := by
  apply Vector.ext
  intro j hj
  by_cases h : i = j <;> simp [bankSet, h]

/-- Writing back the element that is there changes nothing. -/
@[simp] theorem bankSet_bankGet {α : Type} {n : Nat} (v : Vector α n) (d : α) (i : Nat) :
    bankSet v i (bankGet v d i) = v := by
  apply Vector.ext
  intro j hj
  by_cases h : i = j
  · subst h; simp [bankSet, bankGet, hj]
  · simp [bankSet, h]

/-- A written element reads back. -/
@[simp] theorem bankGet_bankSet_same {α : Type} {n : Nat} (v : Vector α n) (d x : α) (i : Nat) (h : i < n) :
    bankGet (bankSet v i x) d i = x := by simp [bankGet_bankSet, h]

/-- Another element is unchanged. -/
@[simp] theorem bankGet_bankSet_other {α : Type} {n : Nat} (v : Vector α n) (d x : α) {i j : Nat} (h : i ≠ j) :
    bankGet (bankSet v i x) d j = bankGet v d j := by simp [bankGet_bankSet, h]

namespace Machine

variable (s : State)

@[simp] theorem State.modRx_params (q : Nat) (f : RxQueue → RxQueue) : (s.modRx q f).params = s.params := rfl
@[simp] theorem State.modRx_mem (q : Nat) (f : RxQueue → RxQueue) : (s.modRx q f).mem = s.mem := rfl
@[simp] theorem State.modRx_bufs (q : Nat) (f : RxQueue → RxQueue) : (s.modRx q f).bufs = s.bufs := rfl
@[simp] theorem State.modRx_liveRings (q : Nat) (f : RxQueue → RxQueue) : (s.modRx q f).liveRings = s.liveRings := rfl
@[simp] theorem State.modRx_rxq (q : Nat) (f : RxQueue → RxQueue) : (s.modRx q f).rxq = bankSet s.rxq q (f (s.rx q)) := rfl
@[simp] theorem State.modRx_txq (q : Nat) (f : RxQueue → RxQueue) : (s.modRx q f).txq = s.txq := rfl
@[simp] theorem State.modRx_groups (q : Nat) (f : RxQueue → RxQueue) : (s.modRx q f).groups = s.groups := rfl
@[simp] theorem State.modRx_banks (q : Nat) (f : RxQueue → RxQueue) : (s.modRx q f).banks = s.banks := rfl
@[simp] theorem State.modRx_dev (q : Nat) (f : RxQueue → RxQueue) : (s.modRx q f).dev = s.dev := rfl
@[simp] theorem State.modRx_pool (q : Nat) (f : RxQueue → RxQueue) : (s.modRx q f).pool = s.pool := rfl
@[simp] theorem State.modRx_engRx (q : Nat) (f : RxQueue → RxQueue) : (s.modRx q f).engRx = s.engRx := rfl
@[simp] theorem State.modRx_engTx (q : Nat) (f : RxQueue → RxQueue) : (s.modRx q f).engTx = s.engTx := rfl
@[simp] theorem State.modRx_stats (q : Nat) (f : RxQueue → RxQueue) : (s.modRx q f).stats = s.stats := rfl
@[simp] theorem State.modRx_snap (q : Nat) (f : RxQueue → RxQueue) : (s.modRx q f).snap = s.snap := rfl
@[simp] theorem State.modRx_env (q : Nat) (f : RxQueue → RxQueue) : (s.modRx q f).env = s.env := rfl
@[simp] theorem State.modRx_agenda (q : Nat) (f : RxQueue → RxQueue) : (s.modRx q f).agenda = s.agenda := rfl

@[simp] theorem State.modTx_params (q : Nat) (f : TxQueue → TxQueue) : (s.modTx q f).params = s.params := rfl
@[simp] theorem State.modTx_mem (q : Nat) (f : TxQueue → TxQueue) : (s.modTx q f).mem = s.mem := rfl
@[simp] theorem State.modTx_bufs (q : Nat) (f : TxQueue → TxQueue) : (s.modTx q f).bufs = s.bufs := rfl
@[simp] theorem State.modTx_liveRings (q : Nat) (f : TxQueue → TxQueue) : (s.modTx q f).liveRings = s.liveRings := rfl
@[simp] theorem State.modTx_rxq (q : Nat) (f : TxQueue → TxQueue) : (s.modTx q f).rxq = s.rxq := rfl
@[simp] theorem State.modTx_txq (q : Nat) (f : TxQueue → TxQueue) : (s.modTx q f).txq = bankSet s.txq q (f (s.tx q)) := rfl
@[simp] theorem State.modTx_groups (q : Nat) (f : TxQueue → TxQueue) : (s.modTx q f).groups = s.groups := rfl
@[simp] theorem State.modTx_banks (q : Nat) (f : TxQueue → TxQueue) : (s.modTx q f).banks = s.banks := rfl
@[simp] theorem State.modTx_dev (q : Nat) (f : TxQueue → TxQueue) : (s.modTx q f).dev = s.dev := rfl
@[simp] theorem State.modTx_pool (q : Nat) (f : TxQueue → TxQueue) : (s.modTx q f).pool = s.pool := rfl
@[simp] theorem State.modTx_engRx (q : Nat) (f : TxQueue → TxQueue) : (s.modTx q f).engRx = s.engRx := rfl
@[simp] theorem State.modTx_engTx (q : Nat) (f : TxQueue → TxQueue) : (s.modTx q f).engTx = s.engTx := rfl
@[simp] theorem State.modTx_stats (q : Nat) (f : TxQueue → TxQueue) : (s.modTx q f).stats = s.stats := rfl
@[simp] theorem State.modTx_snap (q : Nat) (f : TxQueue → TxQueue) : (s.modTx q f).snap = s.snap := rfl
@[simp] theorem State.modTx_env (q : Nat) (f : TxQueue → TxQueue) : (s.modTx q f).env = s.env := rfl
@[simp] theorem State.modTx_agenda (q : Nat) (f : TxQueue → TxQueue) : (s.modTx q f).agenda = s.agenda := rfl

@[simp] theorem State.modGrp_params (g : Nat) (f : Group → Group) : (s.modGrp g f).params = s.params := rfl
@[simp] theorem State.modGrp_mem (g : Nat) (f : Group → Group) : (s.modGrp g f).mem = s.mem := rfl
@[simp] theorem State.modGrp_bufs (g : Nat) (f : Group → Group) : (s.modGrp g f).bufs = s.bufs := rfl
@[simp] theorem State.modGrp_liveRings (g : Nat) (f : Group → Group) : (s.modGrp g f).liveRings = s.liveRings := rfl
@[simp] theorem State.modGrp_rxq (g : Nat) (f : Group → Group) : (s.modGrp g f).rxq = s.rxq := rfl
@[simp] theorem State.modGrp_txq (g : Nat) (f : Group → Group) : (s.modGrp g f).txq = s.txq := rfl
@[simp] theorem State.modGrp_groups (g : Nat) (f : Group → Group) : (s.modGrp g f).groups = bankSet s.groups g (f (s.grp g)) := rfl
@[simp] theorem State.modGrp_banks (g : Nat) (f : Group → Group) : (s.modGrp g f).banks = s.banks := rfl
@[simp] theorem State.modGrp_dev (g : Nat) (f : Group → Group) : (s.modGrp g f).dev = s.dev := rfl
@[simp] theorem State.modGrp_pool (g : Nat) (f : Group → Group) : (s.modGrp g f).pool = s.pool := rfl
@[simp] theorem State.modGrp_engRx (g : Nat) (f : Group → Group) : (s.modGrp g f).engRx = s.engRx := rfl
@[simp] theorem State.modGrp_engTx (g : Nat) (f : Group → Group) : (s.modGrp g f).engTx = s.engTx := rfl
@[simp] theorem State.modGrp_stats (g : Nat) (f : Group → Group) : (s.modGrp g f).stats = s.stats := rfl
@[simp] theorem State.modGrp_snap (g : Nat) (f : Group → Group) : (s.modGrp g f).snap = s.snap := rfl
@[simp] theorem State.modGrp_env (g : Nat) (f : Group → Group) : (s.modGrp g f).env = s.env := rfl
@[simp] theorem State.modGrp_agenda (g : Nat) (f : Group → Group) : (s.modGrp g f).agenda = s.agenda := rfl

@[simp] theorem State.modBank_params (c : Nat) (f : Bank → Bank) : (s.modBank c f).params = s.params := rfl
@[simp] theorem State.modBank_mem (c : Nat) (f : Bank → Bank) : (s.modBank c f).mem = s.mem := rfl
@[simp] theorem State.modBank_bufs (c : Nat) (f : Bank → Bank) : (s.modBank c f).bufs = s.bufs := rfl
@[simp] theorem State.modBank_liveRings (c : Nat) (f : Bank → Bank) : (s.modBank c f).liveRings = s.liveRings := rfl
@[simp] theorem State.modBank_rxq (c : Nat) (f : Bank → Bank) : (s.modBank c f).rxq = s.rxq := rfl
@[simp] theorem State.modBank_txq (c : Nat) (f : Bank → Bank) : (s.modBank c f).txq = s.txq := rfl
@[simp] theorem State.modBank_groups (c : Nat) (f : Bank → Bank) : (s.modBank c f).groups = s.groups := rfl
@[simp] theorem State.modBank_banks (c : Nat) (f : Bank → Bank) : (s.modBank c f).banks = bankSet s.banks c (f (s.bank c)) := rfl
@[simp] theorem State.modBank_dev (c : Nat) (f : Bank → Bank) : (s.modBank c f).dev = s.dev := rfl
@[simp] theorem State.modBank_pool (c : Nat) (f : Bank → Bank) : (s.modBank c f).pool = s.pool := rfl
@[simp] theorem State.modBank_engRx (c : Nat) (f : Bank → Bank) : (s.modBank c f).engRx = s.engRx := rfl
@[simp] theorem State.modBank_engTx (c : Nat) (f : Bank → Bank) : (s.modBank c f).engTx = s.engTx := rfl
@[simp] theorem State.modBank_stats (c : Nat) (f : Bank → Bank) : (s.modBank c f).stats = s.stats := rfl
@[simp] theorem State.modBank_snap (c : Nat) (f : Bank → Bank) : (s.modBank c f).snap = s.snap := rfl
@[simp] theorem State.modBank_env (c : Nat) (f : Bank → Bank) : (s.modBank c f).env = s.env := rfl
@[simp] theorem State.modBank_agenda (c : Nat) (f : Bank → Bank) : (s.modBank c f).agenda = s.agenda := rfl

@[simp] theorem State.modErx_params (q : Nat) (f : EngineRx → EngineRx) : (s.modErx q f).params = s.params := rfl
@[simp] theorem State.modErx_mem (q : Nat) (f : EngineRx → EngineRx) : (s.modErx q f).mem = s.mem := rfl
@[simp] theorem State.modErx_bufs (q : Nat) (f : EngineRx → EngineRx) : (s.modErx q f).bufs = s.bufs := rfl
@[simp] theorem State.modErx_liveRings (q : Nat) (f : EngineRx → EngineRx) : (s.modErx q f).liveRings = s.liveRings := rfl
@[simp] theorem State.modErx_rxq (q : Nat) (f : EngineRx → EngineRx) : (s.modErx q f).rxq = s.rxq := rfl
@[simp] theorem State.modErx_txq (q : Nat) (f : EngineRx → EngineRx) : (s.modErx q f).txq = s.txq := rfl
@[simp] theorem State.modErx_groups (q : Nat) (f : EngineRx → EngineRx) : (s.modErx q f).groups = s.groups := rfl
@[simp] theorem State.modErx_banks (q : Nat) (f : EngineRx → EngineRx) : (s.modErx q f).banks = s.banks := rfl
@[simp] theorem State.modErx_dev (q : Nat) (f : EngineRx → EngineRx) : (s.modErx q f).dev = s.dev := rfl
@[simp] theorem State.modErx_pool (q : Nat) (f : EngineRx → EngineRx) : (s.modErx q f).pool = s.pool := rfl
@[simp] theorem State.modErx_engRx (q : Nat) (f : EngineRx → EngineRx) : (s.modErx q f).engRx = bankSet s.engRx q (f (s.erx q)) := rfl
@[simp] theorem State.modErx_engTx (q : Nat) (f : EngineRx → EngineRx) : (s.modErx q f).engTx = s.engTx := rfl
@[simp] theorem State.modErx_stats (q : Nat) (f : EngineRx → EngineRx) : (s.modErx q f).stats = s.stats := rfl
@[simp] theorem State.modErx_snap (q : Nat) (f : EngineRx → EngineRx) : (s.modErx q f).snap = s.snap := rfl
@[simp] theorem State.modErx_env (q : Nat) (f : EngineRx → EngineRx) : (s.modErx q f).env = s.env := rfl
@[simp] theorem State.modErx_agenda (q : Nat) (f : EngineRx → EngineRx) : (s.modErx q f).agenda = s.agenda := rfl

@[simp] theorem State.modEtx_params (q : Nat) (f : EngineTx → EngineTx) : (s.modEtx q f).params = s.params := rfl
@[simp] theorem State.modEtx_mem (q : Nat) (f : EngineTx → EngineTx) : (s.modEtx q f).mem = s.mem := rfl
@[simp] theorem State.modEtx_bufs (q : Nat) (f : EngineTx → EngineTx) : (s.modEtx q f).bufs = s.bufs := rfl
@[simp] theorem State.modEtx_liveRings (q : Nat) (f : EngineTx → EngineTx) : (s.modEtx q f).liveRings = s.liveRings := rfl
@[simp] theorem State.modEtx_rxq (q : Nat) (f : EngineTx → EngineTx) : (s.modEtx q f).rxq = s.rxq := rfl
@[simp] theorem State.modEtx_txq (q : Nat) (f : EngineTx → EngineTx) : (s.modEtx q f).txq = s.txq := rfl
@[simp] theorem State.modEtx_groups (q : Nat) (f : EngineTx → EngineTx) : (s.modEtx q f).groups = s.groups := rfl
@[simp] theorem State.modEtx_banks (q : Nat) (f : EngineTx → EngineTx) : (s.modEtx q f).banks = s.banks := rfl
@[simp] theorem State.modEtx_dev (q : Nat) (f : EngineTx → EngineTx) : (s.modEtx q f).dev = s.dev := rfl
@[simp] theorem State.modEtx_pool (q : Nat) (f : EngineTx → EngineTx) : (s.modEtx q f).pool = s.pool := rfl
@[simp] theorem State.modEtx_engRx (q : Nat) (f : EngineTx → EngineTx) : (s.modEtx q f).engRx = s.engRx := rfl
@[simp] theorem State.modEtx_engTx (q : Nat) (f : EngineTx → EngineTx) : (s.modEtx q f).engTx = bankSet s.engTx q (f (s.etx q)) := rfl
@[simp] theorem State.modEtx_stats (q : Nat) (f : EngineTx → EngineTx) : (s.modEtx q f).stats = s.stats := rfl
@[simp] theorem State.modEtx_snap (q : Nat) (f : EngineTx → EngineTx) : (s.modEtx q f).snap = s.snap := rfl
@[simp] theorem State.modEtx_env (q : Nat) (f : EngineTx → EngineTx) : (s.modEtx q f).env = s.env := rfl
@[simp] theorem State.modEtx_agenda (q : Nat) (f : EngineTx → EngineTx) : (s.modEtx q f).agenda = s.agenda := rfl

@[simp] theorem State.modDev_params (f : Device → Device) : (s.modDev f).params = s.params := rfl
@[simp] theorem State.modDev_mem (f : Device → Device) : (s.modDev f).mem = s.mem := rfl
@[simp] theorem State.modDev_bufs (f : Device → Device) : (s.modDev f).bufs = s.bufs := rfl
@[simp] theorem State.modDev_liveRings (f : Device → Device) : (s.modDev f).liveRings = s.liveRings := rfl
@[simp] theorem State.modDev_rxq (f : Device → Device) : (s.modDev f).rxq = s.rxq := rfl
@[simp] theorem State.modDev_txq (f : Device → Device) : (s.modDev f).txq = s.txq := rfl
@[simp] theorem State.modDev_groups (f : Device → Device) : (s.modDev f).groups = s.groups := rfl
@[simp] theorem State.modDev_banks (f : Device → Device) : (s.modDev f).banks = s.banks := rfl
@[simp] theorem State.modDev_dev (f : Device → Device) : (s.modDev f).dev = f s.dev := rfl
@[simp] theorem State.modDev_pool (f : Device → Device) : (s.modDev f).pool = s.pool := rfl
@[simp] theorem State.modDev_engRx (f : Device → Device) : (s.modDev f).engRx = s.engRx := rfl
@[simp] theorem State.modDev_engTx (f : Device → Device) : (s.modDev f).engTx = s.engTx := rfl
@[simp] theorem State.modDev_stats (f : Device → Device) : (s.modDev f).stats = s.stats := rfl
@[simp] theorem State.modDev_snap (f : Device → Device) : (s.modDev f).snap = s.snap := rfl
@[simp] theorem State.modDev_env (f : Device → Device) : (s.modDev f).env = s.env := rfl
@[simp] theorem State.modDev_agenda (f : Device → Device) : (s.modDev f).agenda = s.agenda := rfl

@[simp] theorem State.modPool_params (f : Pool → Pool) : (s.modPool f).params = s.params := rfl
@[simp] theorem State.modPool_mem (f : Pool → Pool) : (s.modPool f).mem = s.mem := rfl
@[simp] theorem State.modPool_bufs (f : Pool → Pool) : (s.modPool f).bufs = s.bufs := rfl
@[simp] theorem State.modPool_liveRings (f : Pool → Pool) : (s.modPool f).liveRings = s.liveRings := rfl
@[simp] theorem State.modPool_rxq (f : Pool → Pool) : (s.modPool f).rxq = s.rxq := rfl
@[simp] theorem State.modPool_txq (f : Pool → Pool) : (s.modPool f).txq = s.txq := rfl
@[simp] theorem State.modPool_groups (f : Pool → Pool) : (s.modPool f).groups = s.groups := rfl
@[simp] theorem State.modPool_banks (f : Pool → Pool) : (s.modPool f).banks = s.banks := rfl
@[simp] theorem State.modPool_dev (f : Pool → Pool) : (s.modPool f).dev = s.dev := rfl
@[simp] theorem State.modPool_pool (f : Pool → Pool) : (s.modPool f).pool = f s.pool := rfl
@[simp] theorem State.modPool_engRx (f : Pool → Pool) : (s.modPool f).engRx = s.engRx := rfl
@[simp] theorem State.modPool_engTx (f : Pool → Pool) : (s.modPool f).engTx = s.engTx := rfl
@[simp] theorem State.modPool_stats (f : Pool → Pool) : (s.modPool f).stats = s.stats := rfl
@[simp] theorem State.modPool_snap (f : Pool → Pool) : (s.modPool f).snap = s.snap := rfl
@[simp] theorem State.modPool_env (f : Pool → Pool) : (s.modPool f).env = s.env := rfl
@[simp] theorem State.modPool_agenda (f : Pool → Pool) : (s.modPool f).agenda = s.agenda := rfl

@[simp] theorem State.modEnv_params (f : Env → Env) : (s.modEnv f).params = s.params := rfl
@[simp] theorem State.modEnv_mem (f : Env → Env) : (s.modEnv f).mem = s.mem := rfl
@[simp] theorem State.modEnv_bufs (f : Env → Env) : (s.modEnv f).bufs = s.bufs := rfl
@[simp] theorem State.modEnv_liveRings (f : Env → Env) : (s.modEnv f).liveRings = s.liveRings := rfl
@[simp] theorem State.modEnv_rxq (f : Env → Env) : (s.modEnv f).rxq = s.rxq := rfl
@[simp] theorem State.modEnv_txq (f : Env → Env) : (s.modEnv f).txq = s.txq := rfl
@[simp] theorem State.modEnv_groups (f : Env → Env) : (s.modEnv f).groups = s.groups := rfl
@[simp] theorem State.modEnv_banks (f : Env → Env) : (s.modEnv f).banks = s.banks := rfl
@[simp] theorem State.modEnv_dev (f : Env → Env) : (s.modEnv f).dev = s.dev := rfl
@[simp] theorem State.modEnv_pool (f : Env → Env) : (s.modEnv f).pool = s.pool := rfl
@[simp] theorem State.modEnv_engRx (f : Env → Env) : (s.modEnv f).engRx = s.engRx := rfl
@[simp] theorem State.modEnv_engTx (f : Env → Env) : (s.modEnv f).engTx = s.engTx := rfl
@[simp] theorem State.modEnv_stats (f : Env → Env) : (s.modEnv f).stats = s.stats := rfl
@[simp] theorem State.modEnv_snap (f : Env → Env) : (s.modEnv f).snap = s.snap := rfl
@[simp] theorem State.modEnv_env (f : Env → Env) : (s.modEnv f).env = f s.env := rfl
@[simp] theorem State.modEnv_agenda (f : Env → Env) : (s.modEnv f).agenda = s.agenda := rfl

@[simp] theorem State.setMem_params (m : List Host.Cell) : (s.setMem m).params = s.params := rfl
@[simp] theorem State.setMem_mem (m : List Host.Cell) : (s.setMem m).mem = m := rfl
@[simp] theorem State.setMem_bufs (m : List Host.Cell) : (s.setMem m).bufs = s.bufs := rfl
@[simp] theorem State.setMem_liveRings (m : List Host.Cell) : (s.setMem m).liveRings = s.liveRings := rfl
@[simp] theorem State.setMem_rxq (m : List Host.Cell) : (s.setMem m).rxq = s.rxq := rfl
@[simp] theorem State.setMem_txq (m : List Host.Cell) : (s.setMem m).txq = s.txq := rfl
@[simp] theorem State.setMem_groups (m : List Host.Cell) : (s.setMem m).groups = s.groups := rfl
@[simp] theorem State.setMem_banks (m : List Host.Cell) : (s.setMem m).banks = s.banks := rfl
@[simp] theorem State.setMem_dev (m : List Host.Cell) : (s.setMem m).dev = s.dev := rfl
@[simp] theorem State.setMem_pool (m : List Host.Cell) : (s.setMem m).pool = s.pool := rfl
@[simp] theorem State.setMem_engRx (m : List Host.Cell) : (s.setMem m).engRx = s.engRx := rfl
@[simp] theorem State.setMem_engTx (m : List Host.Cell) : (s.setMem m).engTx = s.engTx := rfl
@[simp] theorem State.setMem_stats (m : List Host.Cell) : (s.setMem m).stats = s.stats := rfl
@[simp] theorem State.setMem_snap (m : List Host.Cell) : (s.setMem m).snap = s.snap := rfl
@[simp] theorem State.setMem_env (m : List Host.Cell) : (s.setMem m).env = s.env := rfl
@[simp] theorem State.setMem_agenda (m : List Host.Cell) : (s.setMem m).agenda = s.agenda := rfl

@[simp] theorem State.setBufs_params (b : List (Handle × Buffer)) : (s.setBufs b).params = s.params := rfl
@[simp] theorem State.setBufs_mem (b : List (Handle × Buffer)) : (s.setBufs b).mem = s.mem := rfl
@[simp] theorem State.setBufs_bufs (b : List (Handle × Buffer)) : (s.setBufs b).bufs = b := rfl
@[simp] theorem State.setBufs_liveRings (b : List (Handle × Buffer)) : (s.setBufs b).liveRings = s.liveRings := rfl
@[simp] theorem State.setBufs_rxq (b : List (Handle × Buffer)) : (s.setBufs b).rxq = s.rxq := rfl
@[simp] theorem State.setBufs_txq (b : List (Handle × Buffer)) : (s.setBufs b).txq = s.txq := rfl
@[simp] theorem State.setBufs_groups (b : List (Handle × Buffer)) : (s.setBufs b).groups = s.groups := rfl
@[simp] theorem State.setBufs_banks (b : List (Handle × Buffer)) : (s.setBufs b).banks = s.banks := rfl
@[simp] theorem State.setBufs_dev (b : List (Handle × Buffer)) : (s.setBufs b).dev = s.dev := rfl
@[simp] theorem State.setBufs_pool (b : List (Handle × Buffer)) : (s.setBufs b).pool = s.pool := rfl
@[simp] theorem State.setBufs_engRx (b : List (Handle × Buffer)) : (s.setBufs b).engRx = s.engRx := rfl
@[simp] theorem State.setBufs_engTx (b : List (Handle × Buffer)) : (s.setBufs b).engTx = s.engTx := rfl
@[simp] theorem State.setBufs_stats (b : List (Handle × Buffer)) : (s.setBufs b).stats = s.stats := rfl
@[simp] theorem State.setBufs_snap (b : List (Handle × Buffer)) : (s.setBufs b).snap = s.snap := rfl
@[simp] theorem State.setBufs_env (b : List (Handle × Buffer)) : (s.setBufs b).env = s.env := rfl
@[simp] theorem State.setBufs_agenda (b : List (Handle × Buffer)) : (s.setBufs b).agenda = s.agenda := rfl

@[simp] theorem State.modBuf_params (h : Handle) (f : Buffer → Buffer) : (s.modBuf h f).params = s.params := rfl
@[simp] theorem State.modBuf_mem (h : Handle) (f : Buffer → Buffer) : (s.modBuf h f).mem = s.mem := rfl
@[simp] theorem State.modBuf_bufs (h : Handle) (f : Buffer → Buffer) : (s.modBuf h f).bufs = changeBuf s.bufs h f := rfl
@[simp] theorem State.modBuf_liveRings (h : Handle) (f : Buffer → Buffer) : (s.modBuf h f).liveRings = s.liveRings := rfl
@[simp] theorem State.modBuf_rxq (h : Handle) (f : Buffer → Buffer) : (s.modBuf h f).rxq = s.rxq := rfl
@[simp] theorem State.modBuf_txq (h : Handle) (f : Buffer → Buffer) : (s.modBuf h f).txq = s.txq := rfl
@[simp] theorem State.modBuf_groups (h : Handle) (f : Buffer → Buffer) : (s.modBuf h f).groups = s.groups := rfl
@[simp] theorem State.modBuf_banks (h : Handle) (f : Buffer → Buffer) : (s.modBuf h f).banks = s.banks := rfl
@[simp] theorem State.modBuf_dev (h : Handle) (f : Buffer → Buffer) : (s.modBuf h f).dev = s.dev := rfl
@[simp] theorem State.modBuf_pool (h : Handle) (f : Buffer → Buffer) : (s.modBuf h f).pool = s.pool := rfl
@[simp] theorem State.modBuf_engRx (h : Handle) (f : Buffer → Buffer) : (s.modBuf h f).engRx = s.engRx := rfl
@[simp] theorem State.modBuf_engTx (h : Handle) (f : Buffer → Buffer) : (s.modBuf h f).engTx = s.engTx := rfl
@[simp] theorem State.modBuf_stats (h : Handle) (f : Buffer → Buffer) : (s.modBuf h f).stats = s.stats := rfl
@[simp] theorem State.modBuf_snap (h : Handle) (f : Buffer → Buffer) : (s.modBuf h f).snap = s.snap := rfl
@[simp] theorem State.modBuf_env (h : Handle) (f : Buffer → Buffer) : (s.modBuf h f).env = s.env := rfl
@[simp] theorem State.modBuf_agenda (h : Handle) (f : Buffer → Buffer) : (s.modBuf h f).agenda = s.agenda := rfl

@[simp] theorem State.setRings_params (r : List (Nat × Nat)) : (s.setRings r).params = s.params := rfl
@[simp] theorem State.setRings_mem (r : List (Nat × Nat)) : (s.setRings r).mem = s.mem := rfl
@[simp] theorem State.setRings_bufs (r : List (Nat × Nat)) : (s.setRings r).bufs = s.bufs := rfl
@[simp] theorem State.setRings_liveRings (r : List (Nat × Nat)) : (s.setRings r).liveRings = r := rfl
@[simp] theorem State.setRings_rxq (r : List (Nat × Nat)) : (s.setRings r).rxq = s.rxq := rfl
@[simp] theorem State.setRings_txq (r : List (Nat × Nat)) : (s.setRings r).txq = s.txq := rfl
@[simp] theorem State.setRings_groups (r : List (Nat × Nat)) : (s.setRings r).groups = s.groups := rfl
@[simp] theorem State.setRings_banks (r : List (Nat × Nat)) : (s.setRings r).banks = s.banks := rfl
@[simp] theorem State.setRings_dev (r : List (Nat × Nat)) : (s.setRings r).dev = s.dev := rfl
@[simp] theorem State.setRings_pool (r : List (Nat × Nat)) : (s.setRings r).pool = s.pool := rfl
@[simp] theorem State.setRings_engRx (r : List (Nat × Nat)) : (s.setRings r).engRx = s.engRx := rfl
@[simp] theorem State.setRings_engTx (r : List (Nat × Nat)) : (s.setRings r).engTx = s.engTx := rfl
@[simp] theorem State.setRings_stats (r : List (Nat × Nat)) : (s.setRings r).stats = s.stats := rfl
@[simp] theorem State.setRings_snap (r : List (Nat × Nat)) : (s.setRings r).snap = s.snap := rfl
@[simp] theorem State.setRings_env (r : List (Nat × Nat)) : (s.setRings r).env = s.env := rfl
@[simp] theorem State.setRings_agenda (r : List (Nat × Nat)) : (s.setRings r).agenda = s.agenda := rfl

@[simp] theorem State.setAgenda_params (a : List Move) : (s.setAgenda a).params = s.params := rfl
@[simp] theorem State.setAgenda_mem (a : List Move) : (s.setAgenda a).mem = s.mem := rfl
@[simp] theorem State.setAgenda_bufs (a : List Move) : (s.setAgenda a).bufs = s.bufs := rfl
@[simp] theorem State.setAgenda_liveRings (a : List Move) : (s.setAgenda a).liveRings = s.liveRings := rfl
@[simp] theorem State.setAgenda_rxq (a : List Move) : (s.setAgenda a).rxq = s.rxq := rfl
@[simp] theorem State.setAgenda_txq (a : List Move) : (s.setAgenda a).txq = s.txq := rfl
@[simp] theorem State.setAgenda_groups (a : List Move) : (s.setAgenda a).groups = s.groups := rfl
@[simp] theorem State.setAgenda_banks (a : List Move) : (s.setAgenda a).banks = s.banks := rfl
@[simp] theorem State.setAgenda_dev (a : List Move) : (s.setAgenda a).dev = s.dev := rfl
@[simp] theorem State.setAgenda_pool (a : List Move) : (s.setAgenda a).pool = s.pool := rfl
@[simp] theorem State.setAgenda_engRx (a : List Move) : (s.setAgenda a).engRx = s.engRx := rfl
@[simp] theorem State.setAgenda_engTx (a : List Move) : (s.setAgenda a).engTx = s.engTx := rfl
@[simp] theorem State.setAgenda_stats (a : List Move) : (s.setAgenda a).stats = s.stats := rfl
@[simp] theorem State.setAgenda_snap (a : List Move) : (s.setAgenda a).snap = s.snap := rfl
@[simp] theorem State.setAgenda_env (a : List Move) : (s.setAgenda a).env = s.env := rfl
@[simp] theorem State.setAgenda_agenda (a : List Move) : (s.setAgenda a).agenda = a := rfl

@[simp] theorem State.count_params (k : Nat) : (s.count k).params = s.params := rfl
@[simp] theorem State.count_mem (k : Nat) : (s.count k).mem = s.mem := rfl
@[simp] theorem State.count_bufs (k : Nat) : (s.count k).bufs = s.bufs := rfl
@[simp] theorem State.count_liveRings (k : Nat) : (s.count k).liveRings = s.liveRings := rfl
@[simp] theorem State.count_rxq (k : Nat) : (s.count k).rxq = s.rxq := rfl
@[simp] theorem State.count_txq (k : Nat) : (s.count k).txq = s.txq := rfl
@[simp] theorem State.count_groups (k : Nat) : (s.count k).groups = s.groups := rfl
@[simp] theorem State.count_banks (k : Nat) : (s.count k).banks = s.banks := rfl
@[simp] theorem State.count_dev (k : Nat) : (s.count k).dev = s.dev := rfl
@[simp] theorem State.count_pool (k : Nat) : (s.count k).pool = s.pool := rfl
@[simp] theorem State.count_engRx (k : Nat) : (s.count k).engRx = s.engRx := rfl
@[simp] theorem State.count_engTx (k : Nat) : (s.count k).engTx = s.engTx := rfl
@[simp] theorem State.count_stats (k : Nat) : (s.count k).stats = bankSet s.stats k (bankGet s.stats 0 k + 1) := rfl
@[simp] theorem State.count_snap (k : Nat) : (s.count k).snap = s.snap := rfl
@[simp] theorem State.count_env (k : Nat) : (s.count k).env = s.env := rfl
@[simp] theorem State.count_agenda (k : Nat) : (s.count k).agenda = s.agenda := rfl

@[simp] theorem State.snapshot_params : (s.snapshot).params = s.params := rfl
@[simp] theorem State.snapshot_mem : (s.snapshot).mem = s.mem := rfl
@[simp] theorem State.snapshot_bufs : (s.snapshot).bufs = s.bufs := rfl
@[simp] theorem State.snapshot_liveRings : (s.snapshot).liveRings = s.liveRings := rfl
@[simp] theorem State.snapshot_rxq : (s.snapshot).rxq = s.rxq := rfl
@[simp] theorem State.snapshot_txq : (s.snapshot).txq = s.txq := rfl
@[simp] theorem State.snapshot_groups : (s.snapshot).groups = s.groups := rfl
@[simp] theorem State.snapshot_banks : (s.snapshot).banks = s.banks := rfl
@[simp] theorem State.snapshot_dev : (s.snapshot).dev = s.dev := rfl
@[simp] theorem State.snapshot_pool : (s.snapshot).pool = s.pool := rfl
@[simp] theorem State.snapshot_engRx : (s.snapshot).engRx = s.engRx := rfl
@[simp] theorem State.snapshot_engTx : (s.snapshot).engTx = s.engTx := rfl
@[simp] theorem State.snapshot_stats : (s.snapshot).stats = s.stats := rfl
@[simp] theorem State.snapshot_snap : (s.snapshot).snap = s.stats := rfl
@[simp] theorem State.snapshot_env : (s.snapshot).env = s.env := rfl
@[simp] theorem State.snapshot_agenda : (s.snapshot).agenda = s.agenda := rfl

/-! ### The banks of registers after an update -/

theorem State.rx_modRx (q j : Nat) (f : RxQueue → RxQueue) :
    (s.modRx q f).rx j = if q = j ∧ q < 8 then f (s.rx q) else s.rx j := bankGet_bankSet _ _ _ _ _
@[simp] theorem State.rx_modRx_same (q : Nat) (f : RxQueue → RxQueue) (h : q < 8) :
    (s.modRx q f).rx q = f (s.rx q) := bankGet_bankSet_same _ _ _ _ h
@[simp] theorem State.rx_modRx_other {q j : Nat} (f : RxQueue → RxQueue) (h : q ≠ j) :
    (s.modRx q f).rx j = s.rx j := bankGet_bankSet_other _ _ _ h
@[simp] theorem State.rx_modTx (q : Nat) (f : TxQueue → TxQueue) (j : Nat) : (s.modTx q f).rx j = s.rx j := rfl
@[simp] theorem State.rx_modGrp (g : Nat) (f : Group → Group) (j : Nat) : (s.modGrp g f).rx j = s.rx j := rfl
@[simp] theorem State.rx_modBank (c : Nat) (f : Bank → Bank) (j : Nat) : (s.modBank c f).rx j = s.rx j := rfl
@[simp] theorem State.rx_modErx (q : Nat) (f : EngineRx → EngineRx) (j : Nat) : (s.modErx q f).rx j = s.rx j := rfl
@[simp] theorem State.rx_modEtx (q : Nat) (f : EngineTx → EngineTx) (j : Nat) : (s.modEtx q f).rx j = s.rx j := rfl
@[simp] theorem State.rx_modDev (f : Device → Device) (j : Nat) : (s.modDev f).rx j = s.rx j := rfl
@[simp] theorem State.rx_modPool (f : Pool → Pool) (j : Nat) : (s.modPool f).rx j = s.rx j := rfl
@[simp] theorem State.rx_modEnv (f : Env → Env) (j : Nat) : (s.modEnv f).rx j = s.rx j := rfl
@[simp] theorem State.rx_setMem (m : List Host.Cell) (j : Nat) : (s.setMem m).rx j = s.rx j := rfl
@[simp] theorem State.rx_setBufs (b : List (Handle × Buffer)) (j : Nat) : (s.setBufs b).rx j = s.rx j := rfl
@[simp] theorem State.rx_modBuf (h : Handle) (f : Buffer → Buffer) (j : Nat) : (s.modBuf h f).rx j = s.rx j := rfl
@[simp] theorem State.rx_setRings (r : List (Nat × Nat)) (j : Nat) : (s.setRings r).rx j = s.rx j := rfl
@[simp] theorem State.rx_setAgenda (a : List Move) (j : Nat) : (s.setAgenda a).rx j = s.rx j := rfl
@[simp] theorem State.rx_count (k : Nat) (j : Nat) : (s.count k).rx j = s.rx j := rfl
@[simp] theorem State.rx_snapshot (j : Nat) : (s.snapshot).rx j = s.rx j := rfl

theorem State.tx_modTx (q j : Nat) (f : TxQueue → TxQueue) :
    (s.modTx q f).tx j = if q = j ∧ q < 8 then f (s.tx q) else s.tx j := bankGet_bankSet _ _ _ _ _
@[simp] theorem State.tx_modTx_same (q : Nat) (f : TxQueue → TxQueue) (h : q < 8) :
    (s.modTx q f).tx q = f (s.tx q) := bankGet_bankSet_same _ _ _ _ h
@[simp] theorem State.tx_modTx_other {q j : Nat} (f : TxQueue → TxQueue) (h : q ≠ j) :
    (s.modTx q f).tx j = s.tx j := bankGet_bankSet_other _ _ _ h
@[simp] theorem State.tx_modRx (q : Nat) (f : RxQueue → RxQueue) (j : Nat) : (s.modRx q f).tx j = s.tx j := rfl
@[simp] theorem State.tx_modGrp (g : Nat) (f : Group → Group) (j : Nat) : (s.modGrp g f).tx j = s.tx j := rfl
@[simp] theorem State.tx_modBank (c : Nat) (f : Bank → Bank) (j : Nat) : (s.modBank c f).tx j = s.tx j := rfl
@[simp] theorem State.tx_modErx (q : Nat) (f : EngineRx → EngineRx) (j : Nat) : (s.modErx q f).tx j = s.tx j := rfl
@[simp] theorem State.tx_modEtx (q : Nat) (f : EngineTx → EngineTx) (j : Nat) : (s.modEtx q f).tx j = s.tx j := rfl
@[simp] theorem State.tx_modDev (f : Device → Device) (j : Nat) : (s.modDev f).tx j = s.tx j := rfl
@[simp] theorem State.tx_modPool (f : Pool → Pool) (j : Nat) : (s.modPool f).tx j = s.tx j := rfl
@[simp] theorem State.tx_modEnv (f : Env → Env) (j : Nat) : (s.modEnv f).tx j = s.tx j := rfl
@[simp] theorem State.tx_setMem (m : List Host.Cell) (j : Nat) : (s.setMem m).tx j = s.tx j := rfl
@[simp] theorem State.tx_setBufs (b : List (Handle × Buffer)) (j : Nat) : (s.setBufs b).tx j = s.tx j := rfl
@[simp] theorem State.tx_modBuf (h : Handle) (f : Buffer → Buffer) (j : Nat) : (s.modBuf h f).tx j = s.tx j := rfl
@[simp] theorem State.tx_setRings (r : List (Nat × Nat)) (j : Nat) : (s.setRings r).tx j = s.tx j := rfl
@[simp] theorem State.tx_setAgenda (a : List Move) (j : Nat) : (s.setAgenda a).tx j = s.tx j := rfl
@[simp] theorem State.tx_count (k : Nat) (j : Nat) : (s.count k).tx j = s.tx j := rfl
@[simp] theorem State.tx_snapshot (j : Nat) : (s.snapshot).tx j = s.tx j := rfl

theorem State.grp_modGrp (g j : Nat) (f : Group → Group) :
    (s.modGrp g f).grp j = if g = j ∧ g < 8 then f (s.grp g) else s.grp j := bankGet_bankSet _ _ _ _ _
@[simp] theorem State.grp_modGrp_same (g : Nat) (f : Group → Group) (h : g < 8) :
    (s.modGrp g f).grp g = f (s.grp g) := bankGet_bankSet_same _ _ _ _ h
@[simp] theorem State.grp_modGrp_other {g j : Nat} (f : Group → Group) (h : g ≠ j) :
    (s.modGrp g f).grp j = s.grp j := bankGet_bankSet_other _ _ _ h
@[simp] theorem State.grp_modRx (q : Nat) (f : RxQueue → RxQueue) (j : Nat) : (s.modRx q f).grp j = s.grp j := rfl
@[simp] theorem State.grp_modTx (q : Nat) (f : TxQueue → TxQueue) (j : Nat) : (s.modTx q f).grp j = s.grp j := rfl
@[simp] theorem State.grp_modBank (c : Nat) (f : Bank → Bank) (j : Nat) : (s.modBank c f).grp j = s.grp j := rfl
@[simp] theorem State.grp_modErx (q : Nat) (f : EngineRx → EngineRx) (j : Nat) : (s.modErx q f).grp j = s.grp j := rfl
@[simp] theorem State.grp_modEtx (q : Nat) (f : EngineTx → EngineTx) (j : Nat) : (s.modEtx q f).grp j = s.grp j := rfl
@[simp] theorem State.grp_modDev (f : Device → Device) (j : Nat) : (s.modDev f).grp j = s.grp j := rfl
@[simp] theorem State.grp_modPool (f : Pool → Pool) (j : Nat) : (s.modPool f).grp j = s.grp j := rfl
@[simp] theorem State.grp_modEnv (f : Env → Env) (j : Nat) : (s.modEnv f).grp j = s.grp j := rfl
@[simp] theorem State.grp_setMem (m : List Host.Cell) (j : Nat) : (s.setMem m).grp j = s.grp j := rfl
@[simp] theorem State.grp_setBufs (b : List (Handle × Buffer)) (j : Nat) : (s.setBufs b).grp j = s.grp j := rfl
@[simp] theorem State.grp_modBuf (h : Handle) (f : Buffer → Buffer) (j : Nat) : (s.modBuf h f).grp j = s.grp j := rfl
@[simp] theorem State.grp_setRings (r : List (Nat × Nat)) (j : Nat) : (s.setRings r).grp j = s.grp j := rfl
@[simp] theorem State.grp_setAgenda (a : List Move) (j : Nat) : (s.setAgenda a).grp j = s.grp j := rfl
@[simp] theorem State.grp_count (k : Nat) (j : Nat) : (s.count k).grp j = s.grp j := rfl
@[simp] theorem State.grp_snapshot (j : Nat) : (s.snapshot).grp j = s.grp j := rfl

theorem State.bank_modBank (c j : Nat) (f : Bank → Bank) :
    (s.modBank c f).bank j = if c = j ∧ c < 16 then f (s.bank c) else s.bank j := bankGet_bankSet _ _ _ _ _
@[simp] theorem State.bank_modBank_same (c : Nat) (f : Bank → Bank) (h : c < 16) :
    (s.modBank c f).bank c = f (s.bank c) := bankGet_bankSet_same _ _ _ _ h
@[simp] theorem State.bank_modBank_other {c j : Nat} (f : Bank → Bank) (h : c ≠ j) :
    (s.modBank c f).bank j = s.bank j := bankGet_bankSet_other _ _ _ h
@[simp] theorem State.bank_modRx (q : Nat) (f : RxQueue → RxQueue) (j : Nat) : (s.modRx q f).bank j = s.bank j := rfl
@[simp] theorem State.bank_modTx (q : Nat) (f : TxQueue → TxQueue) (j : Nat) : (s.modTx q f).bank j = s.bank j := rfl
@[simp] theorem State.bank_modGrp (g : Nat) (f : Group → Group) (j : Nat) : (s.modGrp g f).bank j = s.bank j := rfl
@[simp] theorem State.bank_modErx (q : Nat) (f : EngineRx → EngineRx) (j : Nat) : (s.modErx q f).bank j = s.bank j := rfl
@[simp] theorem State.bank_modEtx (q : Nat) (f : EngineTx → EngineTx) (j : Nat) : (s.modEtx q f).bank j = s.bank j := rfl
@[simp] theorem State.bank_modDev (f : Device → Device) (j : Nat) : (s.modDev f).bank j = s.bank j := rfl
@[simp] theorem State.bank_modPool (f : Pool → Pool) (j : Nat) : (s.modPool f).bank j = s.bank j := rfl
@[simp] theorem State.bank_modEnv (f : Env → Env) (j : Nat) : (s.modEnv f).bank j = s.bank j := rfl
@[simp] theorem State.bank_setMem (m : List Host.Cell) (j : Nat) : (s.setMem m).bank j = s.bank j := rfl
@[simp] theorem State.bank_setBufs (b : List (Handle × Buffer)) (j : Nat) : (s.setBufs b).bank j = s.bank j := rfl
@[simp] theorem State.bank_modBuf (h : Handle) (f : Buffer → Buffer) (j : Nat) : (s.modBuf h f).bank j = s.bank j := rfl
@[simp] theorem State.bank_setRings (r : List (Nat × Nat)) (j : Nat) : (s.setRings r).bank j = s.bank j := rfl
@[simp] theorem State.bank_setAgenda (a : List Move) (j : Nat) : (s.setAgenda a).bank j = s.bank j := rfl
@[simp] theorem State.bank_count (k : Nat) (j : Nat) : (s.count k).bank j = s.bank j := rfl
@[simp] theorem State.bank_snapshot (j : Nat) : (s.snapshot).bank j = s.bank j := rfl

theorem State.erx_modErx (q j : Nat) (f : EngineRx → EngineRx) :
    (s.modErx q f).erx j = if q = j ∧ q < 8 then f (s.erx q) else s.erx j := bankGet_bankSet _ _ _ _ _
@[simp] theorem State.erx_modErx_same (q : Nat) (f : EngineRx → EngineRx) (h : q < 8) :
    (s.modErx q f).erx q = f (s.erx q) := bankGet_bankSet_same _ _ _ _ h
@[simp] theorem State.erx_modErx_other {q j : Nat} (f : EngineRx → EngineRx) (h : q ≠ j) :
    (s.modErx q f).erx j = s.erx j := bankGet_bankSet_other _ _ _ h
@[simp] theorem State.erx_modRx (q : Nat) (f : RxQueue → RxQueue) (j : Nat) : (s.modRx q f).erx j = s.erx j := rfl
@[simp] theorem State.erx_modTx (q : Nat) (f : TxQueue → TxQueue) (j : Nat) : (s.modTx q f).erx j = s.erx j := rfl
@[simp] theorem State.erx_modGrp (g : Nat) (f : Group → Group) (j : Nat) : (s.modGrp g f).erx j = s.erx j := rfl
@[simp] theorem State.erx_modBank (c : Nat) (f : Bank → Bank) (j : Nat) : (s.modBank c f).erx j = s.erx j := rfl
@[simp] theorem State.erx_modEtx (q : Nat) (f : EngineTx → EngineTx) (j : Nat) : (s.modEtx q f).erx j = s.erx j := rfl
@[simp] theorem State.erx_modDev (f : Device → Device) (j : Nat) : (s.modDev f).erx j = s.erx j := rfl
@[simp] theorem State.erx_modPool (f : Pool → Pool) (j : Nat) : (s.modPool f).erx j = s.erx j := rfl
@[simp] theorem State.erx_modEnv (f : Env → Env) (j : Nat) : (s.modEnv f).erx j = s.erx j := rfl
@[simp] theorem State.erx_setMem (m : List Host.Cell) (j : Nat) : (s.setMem m).erx j = s.erx j := rfl
@[simp] theorem State.erx_setBufs (b : List (Handle × Buffer)) (j : Nat) : (s.setBufs b).erx j = s.erx j := rfl
@[simp] theorem State.erx_modBuf (h : Handle) (f : Buffer → Buffer) (j : Nat) : (s.modBuf h f).erx j = s.erx j := rfl
@[simp] theorem State.erx_setRings (r : List (Nat × Nat)) (j : Nat) : (s.setRings r).erx j = s.erx j := rfl
@[simp] theorem State.erx_setAgenda (a : List Move) (j : Nat) : (s.setAgenda a).erx j = s.erx j := rfl
@[simp] theorem State.erx_count (k : Nat) (j : Nat) : (s.count k).erx j = s.erx j := rfl
@[simp] theorem State.erx_snapshot (j : Nat) : (s.snapshot).erx j = s.erx j := rfl

theorem State.etx_modEtx (q j : Nat) (f : EngineTx → EngineTx) :
    (s.modEtx q f).etx j = if q = j ∧ q < 8 then f (s.etx q) else s.etx j := bankGet_bankSet _ _ _ _ _
@[simp] theorem State.etx_modEtx_same (q : Nat) (f : EngineTx → EngineTx) (h : q < 8) :
    (s.modEtx q f).etx q = f (s.etx q) := bankGet_bankSet_same _ _ _ _ h
@[simp] theorem State.etx_modEtx_other {q j : Nat} (f : EngineTx → EngineTx) (h : q ≠ j) :
    (s.modEtx q f).etx j = s.etx j := bankGet_bankSet_other _ _ _ h
@[simp] theorem State.etx_modRx (q : Nat) (f : RxQueue → RxQueue) (j : Nat) : (s.modRx q f).etx j = s.etx j := rfl
@[simp] theorem State.etx_modTx (q : Nat) (f : TxQueue → TxQueue) (j : Nat) : (s.modTx q f).etx j = s.etx j := rfl
@[simp] theorem State.etx_modGrp (g : Nat) (f : Group → Group) (j : Nat) : (s.modGrp g f).etx j = s.etx j := rfl
@[simp] theorem State.etx_modBank (c : Nat) (f : Bank → Bank) (j : Nat) : (s.modBank c f).etx j = s.etx j := rfl
@[simp] theorem State.etx_modErx (q : Nat) (f : EngineRx → EngineRx) (j : Nat) : (s.modErx q f).etx j = s.etx j := rfl
@[simp] theorem State.etx_modDev (f : Device → Device) (j : Nat) : (s.modDev f).etx j = s.etx j := rfl
@[simp] theorem State.etx_modPool (f : Pool → Pool) (j : Nat) : (s.modPool f).etx j = s.etx j := rfl
@[simp] theorem State.etx_modEnv (f : Env → Env) (j : Nat) : (s.modEnv f).etx j = s.etx j := rfl
@[simp] theorem State.etx_setMem (m : List Host.Cell) (j : Nat) : (s.setMem m).etx j = s.etx j := rfl
@[simp] theorem State.etx_setBufs (b : List (Handle × Buffer)) (j : Nat) : (s.setBufs b).etx j = s.etx j := rfl
@[simp] theorem State.etx_modBuf (h : Handle) (f : Buffer → Buffer) (j : Nat) : (s.modBuf h f).etx j = s.etx j := rfl
@[simp] theorem State.etx_setRings (r : List (Nat × Nat)) (j : Nat) : (s.setRings r).etx j = s.etx j := rfl
@[simp] theorem State.etx_setAgenda (a : List Move) (j : Nat) : (s.setAgenda a).etx j = s.etx j := rfl
@[simp] theorem State.etx_count (k : Nat) (j : Nat) : (s.count k).etx j = s.etx j := rfl
@[simp] theorem State.etx_snapshot (j : Nat) : (s.snapshot).etx j = s.etx j := rfl

/-! ### Two updates of one part as one, and an update that changes nothing -/

theorem State.modRx_modRx (q : Nat) (f f' : RxQueue → RxQueue) (h : q < 8) :
    (s.modRx q f).modRx q f' = s.modRx q fun x => f' (f x) := by
  simp [State.modRx, State.rx, h]
theorem State.modRx_self (q : Nat) (f : RxQueue → RxQueue) (h : f (s.rx q) = s.rx q) : s.modRx q f = s := by
  simp only [State.modRx, h]; simp [State.rx]
theorem State.modTx_modTx (q : Nat) (f f' : TxQueue → TxQueue) (h : q < 8) :
    (s.modTx q f).modTx q f' = s.modTx q fun x => f' (f x) := by
  simp [State.modTx, State.tx, h]
theorem State.modTx_self (q : Nat) (f : TxQueue → TxQueue) (h : f (s.tx q) = s.tx q) : s.modTx q f = s := by
  simp only [State.modTx, h]; simp [State.tx]
theorem State.modGrp_modGrp (g : Nat) (f f' : Group → Group) (h : g < 8) :
    (s.modGrp g f).modGrp g f' = s.modGrp g fun x => f' (f x) := by
  simp [State.modGrp, State.grp, h]
theorem State.modGrp_self (g : Nat) (f : Group → Group) (h : f (s.grp g) = s.grp g) : s.modGrp g f = s := by
  simp only [State.modGrp, h]; simp [State.grp]
theorem State.modBank_modBank (c : Nat) (f f' : Bank → Bank) (h : c < 16) :
    (s.modBank c f).modBank c f' = s.modBank c fun x => f' (f x) := by
  simp [State.modBank, State.bank, h]
theorem State.modBank_self (c : Nat) (f : Bank → Bank) (h : f (s.bank c) = s.bank c) : s.modBank c f = s := by
  simp only [State.modBank, h]; simp [State.bank]
theorem State.modErx_modErx (q : Nat) (f f' : EngineRx → EngineRx) (h : q < 8) :
    (s.modErx q f).modErx q f' = s.modErx q fun x => f' (f x) := by
  simp [State.modErx, State.erx, h]
theorem State.modErx_self (q : Nat) (f : EngineRx → EngineRx) (h : f (s.erx q) = s.erx q) : s.modErx q f = s := by
  simp only [State.modErx, h]; simp [State.erx]
theorem State.modEtx_modEtx (q : Nat) (f f' : EngineTx → EngineTx) (h : q < 8) :
    (s.modEtx q f).modEtx q f' = s.modEtx q fun x => f' (f x) := by
  simp [State.modEtx, State.etx, h]
theorem State.modEtx_self (q : Nat) (f : EngineTx → EngineTx) (h : f (s.etx q) = s.etx q) : s.modEtx q f = s := by
  simp only [State.modEtx, h]; simp [State.etx]
theorem State.modDev_modDev (f f' : Device → Device) : (s.modDev f).modDev f' = s.modDev fun x => f' (f x) := rfl
theorem State.modPool_modPool (f f' : Pool → Pool) : (s.modPool f).modPool f' = s.modPool fun x => f' (f x) := rfl
theorem State.modEnv_modEnv (f f' : Env → Env) : (s.modEnv f).modEnv f' = s.modEnv fun x => f' (f x) := rfl
theorem State.modDev_self (f : Device → Device) (h : f s.dev = s.dev) : s.modDev f = s := by
  simp only [State.modDev, h]
theorem State.modPool_self (f : Pool → Pool) (h : f s.pool = s.pool) : s.modPool f = s := by
  simp only [State.modPool, h]

/-! ### The buffer table -/

/-- The entry of a handle after an entry was set. -/
theorem findBuf_insertBuf (t : List (Handle × Buffer)) (h x : Handle) (b : Buffer) :
    findBuf (insertBuf t h b) x = if x = h then some b else findBuf t x := by
  induction t with
  | nil => simp [insertBuf, findBuf]
  | cons e t ih =>
    obtain ⟨k, y⟩ := e
    simp only [insertBuf]
    split
    · simp [findBuf]
    · split
      · subst_vars
        by_cases hx : x = k <;> simp [findBuf, hx]
      · by_cases hx : x = k
        · subst hx
          simp [findBuf, Ne.symm ‹_›]
        · simp [findBuf, hx, ih]

/-- The entry of a handle after an entry was changed. -/
theorem findBuf_changeBuf (t : List (Handle × Buffer)) (h x : Handle) (f : Buffer → Buffer) :
    findBuf (changeBuf t h f) x = if x = h then (findBuf t x).map f else findBuf t x := by
  induction t with
  | nil => simp [changeBuf, findBuf]
  | cons e t ih =>
    obtain ⟨k, y⟩ := e
    simp only [changeBuf]
    split
    · rename_i hk
      subst hk
      by_cases hx : x = h <;> simp [findBuf, hx]
    · by_cases hx : x = k
      · subst hx
        simp [findBuf, Ne.symm ‹_›]
      · simp [findBuf, hx, ih]

theorem State.buf_modBuf (h x : Handle) (f : Buffer → Buffer) :
    (s.modBuf h f).buf x = if x = h then (s.buf x).map f else s.buf x := findBuf_changeBuf _ _ _ _
theorem State.buf_insertBuf (h x : Handle) (b : Buffer) :
    (s.setBufs (insertBuf s.bufs h b)).buf x = if x = h then some b else s.buf x := findBuf_insertBuf _ _ _ _
@[simp] theorem State.buf_modBuf_same (h : Handle) (f : Buffer → Buffer) : (s.modBuf h f).buf h = (s.buf h).map f := by
  simp [State.buf_modBuf]
@[simp] theorem State.buf_modBuf_other {h x : Handle} (f : Buffer → Buffer) (hx : x ≠ h) :
    (s.modBuf h f).buf x = s.buf x := by simp [State.buf_modBuf, hx]

@[simp] theorem State.buf_modRx (q : Nat) (f : RxQueue → RxQueue) (h : Handle) : (s.modRx q f).buf h = s.buf h := rfl
@[simp] theorem State.buf_modTx (q : Nat) (f : TxQueue → TxQueue) (h : Handle) : (s.modTx q f).buf h = s.buf h := rfl
@[simp] theorem State.buf_modGrp (g : Nat) (f : Group → Group) (h : Handle) : (s.modGrp g f).buf h = s.buf h := rfl
@[simp] theorem State.buf_modBank (c : Nat) (f : Bank → Bank) (h : Handle) : (s.modBank c f).buf h = s.buf h := rfl
@[simp] theorem State.buf_modErx (q : Nat) (f : EngineRx → EngineRx) (h : Handle) : (s.modErx q f).buf h = s.buf h := rfl
@[simp] theorem State.buf_modEtx (q : Nat) (f : EngineTx → EngineTx) (h : Handle) : (s.modEtx q f).buf h = s.buf h := rfl
@[simp] theorem State.buf_modDev (f : Device → Device) (h : Handle) : (s.modDev f).buf h = s.buf h := rfl
@[simp] theorem State.buf_modPool (f : Pool → Pool) (h : Handle) : (s.modPool f).buf h = s.buf h := rfl
@[simp] theorem State.buf_modEnv (f : Env → Env) (h : Handle) : (s.modEnv f).buf h = s.buf h := rfl
@[simp] theorem State.buf_setMem (m : List Host.Cell) (h : Handle) : (s.setMem m).buf h = s.buf h := rfl
@[simp] theorem State.buf_setRings (r : List (Nat × Nat)) (h : Handle) : (s.setRings r).buf h = s.buf h := rfl
@[simp] theorem State.buf_setAgenda (a : List Move) (h : Handle) : (s.setAgenda a).buf h = s.buf h := rfl
@[simp] theorem State.buf_count (k : Nat) (h : Handle) : (s.count k).buf h = s.buf h := rfl
@[simp] theorem State.buf_snapshot (h : Handle) : (s.snapshot).buf h = s.buf h := rfl

end Machine

end Sys2Proof
end

