-- ==== Sys2Proof/Laws/Run.lean ====
section
/-! SUPPORT. How programs of events run: `Reaches` says that a program comes to another one, without waiting, and in
what state; one lemma for every primitive, so that an operation is run by citing them and never by unfolding `run`. -/

namespace Sys2Proof.Machine

/-- From `s` the program `p` comes to `q` in the state `t`, without waiting. -/
def Prog.Reaches (p : Prog) (s : State) (q : Prog) (t : State) : Prop :=
  ∀ log, ∃ log', p.run s log = q.run t log'

namespace Prog

variable {s t u : State} {p q r : Prog}

theorem Reaches.refl : p.Reaches s p s := fun log => ⟨log, rfl⟩

theorem Reaches.trans (h1 : p.Reaches s q t) (h2 : q.Reaches t r u) : p.Reaches s r u := fun log =>
  let ⟨l1, e1⟩ := h1 log
  let ⟨l2, e2⟩ := h2 l1
  ⟨l2, e1.trans e2⟩

/-- An event that happens at once. -/
theorem reaches_event {f : State → Event} {k : Resp → Prog} {a : Resp} (h : f s = .ok t a) :
    (Prog.ev f k).Reaches s (k a) t := fun log => ⟨log ++ [a], by simp [run, occur, h]⟩

theorem reaches_set (f : State → State) : (Prog.set f p).Reaches s p (f s) := reaches_event rfl

theorem reaches_writeBarrier : (Prog.writeBarrier p).Reaches s p s := reaches_event rfl

theorem reaches_readBarrier : (Prog.readBarrier p).Reaches s p s := reaches_event rfl

theorem reaches_askFlag (f : State → Bool) (k : Bool → Prog) : (Prog.askFlag f k).Reaches s (k (f s)) s :=
  fun log => ⟨log ++ [.flag (f s)], rfl⟩

theorem reaches_askNat (f : State → Nat) (k : Nat → Prog) : (Prog.askNat f k).Reaches s (k (f s)) s :=
  fun log => ⟨log ++ [.nat (f s)], rfl⟩

theorem reaches_askDWord (f : State → DWord) (k : DWord → Prog) : (Prog.askDWord f k).Reaches s (k (f s)) s :=
  fun log => ⟨log ++ [.dword (f s)], rfl⟩

theorem reaches_askHandles (f : State → List Handle) (k : List Handle → Prog) :
    (Prog.askHandles f k).Reaches s (k (f s)) s := fun log => ⟨log ++ [.handles (f s)], rfl⟩

theorem reaches_askRegions (f : State → List Region) (k : List Region → Prog) :
    (Prog.askRegions f k).Reaches s (k (f s)) s := fun log => ⟨log ++ [.regions (f s)], rfl⟩

theorem reaches_askRx (f : State → RxEntry) (k : RxEntry → Prog) : (Prog.askRx f k).Reaches s (k (f s)) s :=
  fun log => ⟨log ++ [.rx (f s)], rfl⟩

theorem reaches_askTx (f : State → TxEntry) (k : TxEntry → Prog) : (Prog.askTx f k).Reaches s (k (f s)) s :=
  fun log => ⟨log ++ [.tx (f s)], rfl⟩

theorem reaches_askRxs (f : State → List RxEntry) (k : List RxEntry → Prog) :
    (Prog.askRxs f k).Reaches s (k (f s)) s := fun log => ⟨log ++ [.rxs (f s)], rfl⟩

theorem reaches_askTxs (f : State → List TxEntry) (k : List TxEntry → Prog) :
    (Prog.askTxs f k).Reaches s (k (f s)) s := fun log => ⟨log ++ [.txs (f s)], rfl⟩

theorem reaches_askQueues (f : State → List (Kind × Nat)) (k : List (Kind × Nat) → Prog) :
    (Prog.askQueues f k).Reaches s (k (f s)) s := fun log => ⟨log ++ [.queues (f s)], rfl⟩

theorem reaches_check_ok {f : State → Code} (g : State → State) (k : Code → Prog) (h : f s = .ok) :
    (Prog.check f g k).Reaches s (k .ok) (g s) := reaches_event (a := .code .ok) (by simp [h])

theorem reaches_check_fails {f : State → Code} (g : State → State) (k : Code → Prog) (h : f s ≠ .ok) :
    (Prog.check f g k).Reaches s (k (f s)) s := reaches_event (a := .code (f s)) (by simp [h])

theorem reaches_gate_pass {f : State → Verdict} (g : State → State) (k : Code → Prog) (h : f s = .pass) :
    (Prog.gate f g k).Reaches s (k .ok) (g s) := reaches_event (a := .code .ok) (by simp [h])

theorem reaches_gate_code {f : State → Verdict} (g : State → State) (k : Code → Prog) {c : Code}
    (h : f s = .code c) : (Prog.gate f g k).Reaches s (k c) s := reaches_event (a := .code c) (by simp [h])

theorem run_gate_refuse {f : State → Verdict} (g : State → State) (k : Code → Prog) {x : Refusal}
    (h : f s = .refuse x) (log : List Resp) : (Prog.gate f g k).run s log = .refuse x := by
  simp [Prog.gate, run, occur, h]

theorem reaches_testAndSet_won {f : State → Bool} (g : State → State) (k : Bool → Prog) (h : f s = true) :
    (Prog.testAndSet f g k).Reaches s (k true) (g s) := reaches_event (a := .flag true) (by simp [h])

theorem reaches_testAndSet_lost {f : State → Bool} (g : State → State) (k : Bool → Prog) (h : f s = false) :
    (Prog.testAndSet f g k).Reaches s (k false) s := reaches_event (a := .flag false) (by simp [h])

theorem reaches_await {f : State → Bool} (h : f s = true) : (Prog.await f p).Reaches s p s :=
  reaches_event (a := .unit) (by simp [h])

theorem reaches_require {f : State → Bool} (x : Refusal) (h : f s = true) : (Prog.require f x p).Reaches s p s :=
  reaches_event (a := .unit) (by simp [h])

theorem reaches_lock {n : LockName} (c : Nat) (h : s.lockOf n = .free) :
    (Prog.lock n c p).Reaches s p (s.setLock n (.held c)) := reaches_event (a := .unit) (by simp [h])

theorem reaches_unlock (n : LockName) : (Prog.unlock n p).Reaches s p (s.setLock n .free) := reaches_event rfl

theorem reaches_read32 {a : State → Nat} (k : Word → Prog) (h : a s + 4 ≤ addressSpace) :
    (Prog.read32 a k).Reaches s (k (readWord s.mem (a s))) s :=
  reaches_event (a := .word _) (if_pos h)

theorem reaches_write32 {a : State → Nat} (v : Word) (h : a s + 4 ≤ addressSpace) :
    (Prog.write32 a v p).Reaches s p (s.setMem (writeWord s.mem (a s) v)) :=
  reaches_event (a := .unit) (if_pos h)

theorem reaches_write64 {a : State → Nat} (v : DWord) (h : a s + 8 ≤ addressSpace) :
    (Prog.write64 a v p).Reaches s p (s.setMem (writeDWord s.mem (a s) v)) :=
  reaches_event (a := .unit) (if_pos h)

theorem reaches_raise (f : FaultCode) : (Prog.raise f p).Reaches s p (s.recordFault f) := reaches_event rfl

theorem reaches_free (h : Handle) : (Prog.free h p).Reaches s p (s.freeBuf h) := reaches_event rfl

theorem reaches_enter (h : s.dev.ctlBusy = false) :
    (enter p).Reaches s p (s.modDev fun d => { d with ctlBusy := true }) :=
  reaches_testAndSet_won _ _ (by simp [h])

theorem reaches_enter_busy (h : s.dev.ctlBusy = true) : (enter p).Reaches s (Prog.done .errState) s :=
  reaches_testAndSet_lost _ _ (by simp [h])

theorem reaches_leave (c : Code) :
    (leave c).Reaches s (Prog.done c) (s.modDev fun d => { d with ctlBusy := false }) := reaches_set _

theorem reaches_trySchedule_won {g : Nat} (k : Bool → Prog) (h : (s.grp g).pollScheduled = false) :
    (trySchedule g k).Reaches s (k true) (s.modGrp g fun x => { x with pollScheduled := true }) :=
  reaches_testAndSet_won _ _ (by simp [h])

theorem reaches_trySchedule_lost {g : Nat} (k : Bool → Prog) (h : (s.grp g).pollScheduled = true) :
    (trySchedule g k).Reaches s (k false) s := reaches_testAndSet_lost _ _ (by simp [h])

/-- The steps of a list, each of which changes the state by `g`. -/
theorem reaches_forEach {β : Type} (l : List β) (body : β → Prog → Prog) (g : State → β → State)
    (h : ∀ b ∈ l, ∀ (k : Prog) (s : State), (body b k).Reaches s k (g s b)) (k : Prog) (s : State) :
    (Prog.forEach l body k).Reaches s k (l.foldl g s) := by
  induction l generalizing s with
  | nil => exact .refl
  | cons b l ih =>
    exact (h b (by simp) _ s).trans (ih (fun x hx => h x (by simp [hx])) _)

/-- The steps of a list, where an invariant makes each possible: the invariant holds at the end. -/
theorem reaches_forEach_inv {β : Type} (l : List β) (body : β → Prog → Prog) (I : List β → State → Prop)
    (h : ∀ b rest, ∀ (k : Prog) (s : State), I (b :: rest) s → ∃ t, (body b k).Reaches s k t ∧ I rest t)
    (k : Prog) (s : State) (hs : I l s) : ∃ t, (Prog.forEach l body k).Reaches s k t ∧ I [] t := by
  induction l generalizing s with
  | nil => exact ⟨s, .refl, hs⟩
  | cons b l ih =>
    obtain ⟨t, h1, h2⟩ := h b l (Prog.forEach l body k) s hs
    obtain ⟨u, h3, h4⟩ := ih t h2
    exact ⟨u, h1.trans h3, h4⟩

end Prog

/-! ### Programs that come to an end, as rewriting -/

/-- From `s` the program `p` comes to its end with the result `r` in the state `t`, without waiting. -/
def Prog.Ends (p : Prog) (s : State) (r : Result) (t : State) : Prop := p.Reaches s (.ret r) t

namespace Prog

variable {s t u : State} {p : Prog} {r : Result}

theorem ends_iff : p.Ends s r t ↔ ∀ log, p.run s log = .done t r := by
  constructor
  · intro h log
    obtain ⟨l, e⟩ := h log
    exact e
  · exact fun h log => ⟨log, h log⟩

/-- How a run ends does not depend on the answers before it. -/
theorem run_log (log log' : List Resp) (h : p.run s log = .done t r) : p.run s log' = .done t r := by
  induction p generalizing s log log' with
  | ret _ => exact h
  | ev f k ih =>
    simp only [run] at h ⊢
    cases ho : occur f s with
    | ok v x => rw [ho] at h; exact ih x _ _ h
    | waits v => rw [ho] at h; cases h
    | fault x => rw [ho] at h; cases h
    | refuse x => rw [ho] at h; cases h

/-- What a program comes to decides how it ends. -/
theorem Reaches.ends_iff {q : Prog} (h : p.Reaches s q u) : p.Ends s r t ↔ q.Ends u r t := by
  constructor
  · intro e
    rw [Prog.ends_iff] at e ⊢
    intro log
    obtain ⟨l, hl⟩ := h []
    exact run_log l _ (hl ▸ e [])
  · exact fun hq => h.trans hq

@[simp] theorem ends_ret {r' : Result} : (Prog.ret r').Ends s r t ↔ s = t ∧ r' = r := by
  simp [Prog.ends_iff, run]

@[simp] theorem ends_done {c : Code} : (Prog.done c).Ends s r t ↔ s = t ∧ Result.only c = r := ends_ret

@[simp] theorem ends_set {f : State → State} : (Prog.set f p).Ends s r t ↔ p.Ends (f s) r t := (reaches_set f).ends_iff

@[simp] theorem ends_writeBarrier : (Prog.writeBarrier p).Ends s r t ↔ p.Ends s r t := reaches_writeBarrier.ends_iff

@[simp] theorem ends_readBarrier : (Prog.readBarrier p).Ends s r t ↔ p.Ends s r t := reaches_readBarrier.ends_iff

@[simp] theorem ends_unlock {n : LockName} : (Prog.unlock n p).Ends s r t ↔ p.Ends (s.setLock n .free) r t :=
  (reaches_unlock n).ends_iff

@[simp] theorem ends_raise {f : FaultCode} : (Prog.raise f p).Ends s r t ↔ p.Ends (s.recordFault f) r t :=
  (reaches_raise f).ends_iff

@[simp] theorem ends_free {h : Handle} : (Prog.free h p).Ends s r t ↔ p.Ends (s.freeBuf h) r t := (reaches_free h).ends_iff

@[simp] theorem ends_askFlag {f : State → Bool} {k : Bool → Prog} :
    (Prog.askFlag f k).Ends s r t ↔ (k (f s)).Ends s r t := (reaches_askFlag f k).ends_iff

@[simp] theorem ends_askNat {f : State → Nat} {k : Nat → Prog} :
    (Prog.askNat f k).Ends s r t ↔ (k (f s)).Ends s r t := (reaches_askNat f k).ends_iff

@[simp] theorem ends_askDWord {f : State → DWord} {k : DWord → Prog} :
    (Prog.askDWord f k).Ends s r t ↔ (k (f s)).Ends s r t := (reaches_askDWord f k).ends_iff

@[simp] theorem ends_askHandles {f : State → List Handle} {k : List Handle → Prog} :
    (Prog.askHandles f k).Ends s r t ↔ (k (f s)).Ends s r t := (reaches_askHandles f k).ends_iff

@[simp] theorem ends_askRegions {f : State → List Region} {k : List Region → Prog} :
    (Prog.askRegions f k).Ends s r t ↔ (k (f s)).Ends s r t := (reaches_askRegions f k).ends_iff

@[simp] theorem ends_askRx {f : State → RxEntry} {k : RxEntry → Prog} :
    (Prog.askRx f k).Ends s r t ↔ (k (f s)).Ends s r t := (reaches_askRx f k).ends_iff

@[simp] theorem ends_askTx {f : State → TxEntry} {k : TxEntry → Prog} :
    (Prog.askTx f k).Ends s r t ↔ (k (f s)).Ends s r t := (reaches_askTx f k).ends_iff

@[simp] theorem ends_askRxs {f : State → List RxEntry} {k : List RxEntry → Prog} :
    (Prog.askRxs f k).Ends s r t ↔ (k (f s)).Ends s r t := (reaches_askRxs f k).ends_iff

@[simp] theorem ends_askTxs {f : State → List TxEntry} {k : List TxEntry → Prog} :
    (Prog.askTxs f k).Ends s r t ↔ (k (f s)).Ends s r t := (reaches_askTxs f k).ends_iff

@[simp] theorem ends_askQueues {f : State → List (Kind × Nat)} {k : List (Kind × Nat) → Prog} :
    (Prog.askQueues f k).Ends s r t ↔ (k (f s)).Ends s r t := (reaches_askQueues f k).ends_iff

@[simp] theorem ends_check {f : State → Code} {g : State → State} {k : Code → Prog} :
    (Prog.check f g k).Ends s r t ↔ (k (f s)).Ends (if f s = .ok then g s else s) r t := by
  by_cases h : f s = .ok
  · rw [h, if_pos rfl]
    exact (reaches_check_ok g k h).ends_iff
  · rw [if_neg h]
    exact (reaches_check_fails g k h).ends_iff

@[simp] theorem ends_testAndSet {f : State → Bool} {g : State → State} {k : Bool → Prog} :
    (Prog.testAndSet f g k).Ends s r t ↔ (k (f s)).Ends (if f s = true then g s else s) r t := by
  cases h : f s
  · simpa using (reaches_testAndSet_lost g k h).ends_iff
  · simpa using (reaches_testAndSet_won g k h).ends_iff

theorem ends_enter (h : s.dev.ctlBusy = false) :
    (enter p).Ends s r t ↔ p.Ends (s.modDev fun d => { d with ctlBusy := true }) r t := by
  simp [enter, h]

@[simp] theorem ends_leave {c : Code} :
    (leave c).Ends s r t ↔ s.modDev (fun d => { d with ctlBusy := false }) = t ∧ Result.only c = r := by
  simp [leave]

theorem ends_await {f : State → Bool} (h : f s = true) : (Prog.await f p).Ends s r t ↔ p.Ends s r t :=
  (reaches_await h).ends_iff

theorem ends_require {f : State → Bool} {x : Refusal} (h : f s = true) :
    (Prog.require f x p).Ends s r t ↔ p.Ends s r t := (reaches_require x h).ends_iff

theorem ends_lock {n : LockName} {c : Nat} (h : s.lockOf n = .free) :
    (Prog.lock n c p).Ends s r t ↔ p.Ends (s.setLock n (.held c)) r t := (reaches_lock c h).ends_iff

theorem ends_read32 {a : State → Nat} {k : Word → Prog} (h : a s + 4 ≤ addressSpace) :
    (Prog.read32 a k).Ends s r t ↔ (k (readWord s.mem (a s))).Ends s r t := (reaches_read32 k h).ends_iff

theorem ends_write32 {a : State → Nat} {v : Word} (h : a s + 4 ≤ addressSpace) :
    (Prog.write32 a v p).Ends s r t ↔ p.Ends (s.setMem (writeWord s.mem (a s) v)) r t :=
  (reaches_write32 v h).ends_iff

theorem ends_write64 {a : State → Nat} {v : DWord} (h : a s + 8 ≤ addressSpace) :
    (Prog.write64 a v p).Ends s r t ↔ p.Ends (s.setMem (writeDWord s.mem (a s) v)) r t :=
  (reaches_write64 v h).ends_iff

@[simp] theorem ends_forEach_nil {β : Type} {body : β → Prog → Prog} :
    (Prog.forEach [] body p).Ends s r t ↔ p.Ends s r t := Iff.rfl

end Prog

/-! ### An operation run to its end -/

/-- An operation whose program comes to an end. -/
theorem execute_of_reaches {i : Instr} {p : Prog} {s t : State} {r : Result} (h : p.Reaches s (.ret r) t) :
    execute i p s = .next (t.finish i.ctx.toNat r) := by
  obtain ⟨log, e⟩ := h []
  simp [execute, e, Prog.run]

/-- An operation whose program comes to an end with a code. -/
theorem execute_of_done {i : Instr} {p : Prog} {s t : State} {c : Code} (h : p.Reaches s (Prog.done c) t) :
    execute i p s = .next (t.finish i.ctx.toNat (Result.only c)) := execute_of_reaches h

/-- An operation whose program comes to its end. -/
theorem execute_of_ends {i : Instr} {p : Prog} {s t : State} {r : Result} (h : p.Ends s r t) :
    execute i p s = .next (t.finish i.ctx.toNat r) := execute_of_reaches h

/-- An operation whose program comes to an event the machine refuses. -/
theorem execute_of_refused {i : Instr} {p : Prog} {s t : State} {f : State → Event} {k : Resp → Prog} {x : Refusal}
    (h : p.Reaches s (.ev f k) t) (hx : f t = .refuse x) : execute i p s = .refused x := by
  obtain ⟨log, e⟩ := h []
  simp [execute, e, Prog.run, occur, hx]

/-- The meaning of every operation is its program run to its end. -/
theorem exec_eq_execute (i : Instr) (s : State) : exec i s = execute i (progOf i) s := by
  cases i <;> rfl

end Sys2Proof.Machine
end

