-- ==== Sys2Proof/Laws/Ops.lean ====
section
/-! SUPPORT. What the operations that others are built from do: for each, and each of its outcomes, one lemma that says
in which state the rest of the program goes on. Statements about an operation cite these and never unfold them. -/

namespace Sys2Proof.Machine

/-- The buffer table with the owner of every handle of a list set. -/
def ownersSet (t : List (Handle × Buffer)) (hs : List Handle) (o : Owner) : List (Handle × Buffer) :=
  hs.foldl (fun t h => changeBuf t h fun b => { b with owner := o }) t

/-- A list of owner updates changes the buffer table alone. -/
theorem State.setOwners_eq (s : State) (hs : List Handle) (o : Owner) :
    s.setOwners hs o = s.setBufs (ownersSet s.bufs hs o) := by
  induction hs generalizing s with
  | nil => rfl
  | cons h hs ih =>
    simp only [State.setOwners, List.foldl_cons] at ih ⊢
    rw [ih]
    rfl

/-- The entry of a handle after a list of owner updates. -/
theorem State.buf_setOwners (s : State) (hs : List Handle) (o : Owner) (x : Handle) :
    (s.setOwners hs o).buf x = if x ∈ hs then (s.buf x).map (fun b => { b with owner := o }) else s.buf x := by
  induction hs generalizing s with
  | nil => simp [State.setOwners]
  | cons h hs ih =>
    simp only [State.setOwners, List.foldl_cons] at ih ⊢
    rw [ih]
    simp only [State.setOwner, State.buf_modBuf, List.mem_cons]
    by_cases h1 : x = h <;> by_cases h2 : x ∈ hs <;> simp [h1, h2] <;> simp_all [Function.comp_def]

/-- A swap of the two lists changes the context's list, the global list and the owners of the buffers on them, and
nothing else (41 R183). -/
theorem State.swapLists_eq (s : State) (c : Nat) :
    s.swapLists c = ((s.setLocal c s.pool.global).modPool fun p => { p with global := (s.bank c).localList }).setBufs
      (ownersSet (ownersSet s.bufs (s.bank c).localList .globalList) s.pool.global (.localList c)) := by
  unfold State.swapLists
  simp only [State.setOwners_eq]
  rfl

/-- The entry of a handle after a swap of the two lists (41 R183). -/
theorem State.buf_swapLists (s : State) (c : Nat) (x : Handle) :
    (s.swapLists c).buf x =
      if x ∈ s.pool.global then (s.buf x).map (fun b => { b with owner := .localList c })
      else if x ∈ (s.bank c).localList then (s.buf x).map (fun b => { b with owner := .globalList })
      else s.buf x := by
  unfold State.swapLists
  simp only [State.buf_setOwners]
  by_cases h1 : x ∈ s.pool.global <;> by_cases h2 : x ∈ (s.bank c).localList <;>
    simp [h1, h2, State.setLocal, Function.comp_def]

/-- The banks after a swap of the two lists (41 R183). -/
theorem State.bank_swapLists (s : State) (c i : Nat) :
    (s.swapLists c).bank i = (s.setLocal c s.pool.global).bank i := by
  rw [State.swapLists_eq]; rfl

/-- The pool after a swap of the two lists (41 R183). -/
theorem State.pool_swapLists (s : State) (c : Nat) :
    (s.swapLists c).pool = { s.pool with global := (s.bank c).localList } := by
  rw [State.swapLists_eq]; rfl

/-- The pool with every buffer freed and every list empty (41 R182). -/
def State.purged (s : State) : State :=
  let u := (List.range s.params.numCpus).foldl (fun s c =>
    ((s.bank c).localList.foldl State.freeBuf s).setLocal c []) s
  (u.pool.global.foldl State.freeBuf u).modPool fun p => { p with global := [] }

/-- A list of buffers freed changes the buffer table alone. -/
theorem State.freeAll_eq (s : State) (hs : List Handle) :
    hs.foldl State.freeBuf s = s.setBufs (hs.foldl State.freeBuf s).bufs := by
  induction hs generalizing s with
  | nil => rfl
  | cons h hs ih =>
    rw [List.foldl_cons, ih]
    rfl

/-- A handle that is not on the list keeps its entry. -/
theorem State.buf_freeAll_other (s : State) (hs : List Handle) (x : Handle) (h : x ∉ hs) :
    (hs.foldl State.freeBuf s).buf x = s.buf x := by
  induction hs generalizing s with
  | nil => rfl
  | cons y hs ih =>
    rw [List.foldl_cons, ih _ fun hx => h (List.mem_cons_of_mem _ hx)]
    exact State.buf_modBuf_other _ _ fun e => h (by simp [e])

/-- A handle of the list is `Freed` (45 R333). -/
theorem State.owner_freeAll (s : State) (hs : List Handle) (x : Handle) (h : x ∈ hs) :
    (hs.foldl State.freeBuf s).owner x = (s.buf x).map fun _ => .freed := by
  induction hs generalizing s with
  | nil => cases h
  | cons y hs ih =>
    rw [List.foldl_cons]
    by_cases hx : x ∈ hs
    · rw [ih _ hx, State.freeBuf, State.buf_modBuf]
      split <;> simp [Function.comp_def]
    · have hy : x = y := by simpa [hx] using h
      subst hy
      rw [State.owner, State.buf_freeAll_other _ _ _ hx, State.freeBuf, State.buf_modBuf_same]
      simp [Function.comp_def]

/-- Writes of memory one after another as one. -/
theorem State.foldl_setMem {β : Type} (l : List β) (g : List Host.Cell → β → List Host.Cell) (u : State) :
    l.foldl (fun s i => s.setMem (g s.mem i)) u = u.setMem (l.foldl g u.mem) := by
  induction l generalizing u with
  | nil => rfl
  | cons i l ih => exact (ih _).trans rfl

/-- Memory after a slot was armed: the address, then the flags (40 R166). -/
def armed (m : List Host.Cell) (d : Nat) (a : DWord) (w : Word) : List Host.Cell :=
  writeWord (writeDWord m (d + 8) a) d w

/-- Memory after a slot was zeroed (40 R162). -/
def zeroSlot (m : List Host.Cell) (d : Nat) : List Host.Cell :=
  writeDWord (writeWord (writeWord m d 0) (d + 4) 0) (d + 8) 0

/-- Memory after a ring of `n` slots was made: every slot zeroed, the last marked with `WRAP` (40 R162). -/
def freshRing (m : List Host.Cell) (base n : Nat) : List Host.Cell :=
  writeWord ((List.range n).foldl (fun m i => zeroSlot m (base + 16 * i)) m) (base + 16 * (n - 1)) 0x20000000

namespace Prog

variable {s t : State} {r : Result} {p : Prog}

/-! ### The environment's answers -/

/-- The allocator answers with a buffer inside its contract (45 R332). -/
theorem ends_alloc_some {c : Nat} {k : Option Handle → Prog} {h : Handle} {a : DWord}
    {rest : List (Option (Handle × DWord))} (he : s.env.bufAnswers = some (h, a) :: rest) (hl : s.live h = false)
    (hf : s.freshRange a.toNat s.bufferCapacity = true) :
    (Prog.alloc c k).Ends s r t ↔ (k (some h)).Ends ((s.modEnv fun e => { e with bufAnswers := rest }).setBufs
      (insertBuf s.bufs h (freshBuffer c s.bufferCapacity a))) r t :=
  Reaches.ends_iff (reaches_event (a := .handle (some h)) (by simp [he, hl, hf]))

/-- The allocator has no memory (45 R332). -/
theorem ends_alloc_none {c : Nat} {k : Option Handle → Prog} {rest : List (Option (Handle × DWord))}
    (he : s.env.bufAnswers = none :: rest) :
    (Prog.alloc c k).Ends s r t ↔ (k none).Ends (s.modEnv fun e => { e with bufAnswers := rest }) r t :=
  Reaches.ends_iff (reaches_event (a := .handle none) (by simp [he]))

/-- The environment holds no answer of the allocator (log 4). -/
theorem ends_alloc_nil {c : Nat} {k : Option Handle → Prog} (he : s.env.bufAnswers = []) :
    (Prog.alloc c k).Ends s r t ↔ (k none).Ends s r t :=
  Reaches.ends_iff (reaches_event (a := .handle none) (by simp [he]))

/-- The allocator answers with memory for a ring inside its contract (45 R331). -/
theorem ends_allocRing_some {n : Nat} {k : Option DWord → Prog} {a : DWord} {rest : List (Option DWord)}
    (he : s.env.ringAnswers = some a :: rest) (ha : a.toNat % 16 = 0) (hf : s.freshRange a.toNat n = true) :
    (Prog.allocRing n k).Ends s r t ↔ (k (some a)).Ends
      ((s.modEnv fun e => { e with ringAnswers := rest }).setRings ((a.toNat, n) :: s.liveRings)) r t :=
  Reaches.ends_iff (reaches_event (a := .handle (some a)) (by simp [he, ha, hf]))

/-- The allocator has no memory for a ring (45 R331). -/
theorem ends_allocRing_none {n : Nat} {k : Option DWord → Prog} {rest : List (Option DWord)}
    (he : s.env.ringAnswers = none :: rest) :
    (Prog.allocRing n k).Ends s r t ↔ (k none).Ends (s.modEnv fun e => { e with ringAnswers := rest }) r t :=
  Reaches.ends_iff (reaches_event (a := .handle none) (by simp [he]))

/-- The registrar accepts a line (45 R334). -/
theorem ends_irqRegister_true {g : Nat} {k : Bool → Prog} {rest : List Bool} (he : s.env.irqAnswers = true :: rest) :
    (Prog.irqRegister g k).Ends s r t ↔ (k true).Ends
      ((s.modEnv fun e => { e with irqAnswers := rest }).modGrp g fun x => { x with irqRegistered := true }) r t :=
  Reaches.ends_iff (reaches_event (a := .flag true) (by simp [he]))

/-- The registrar declines a line (45 R334). -/
theorem ends_irqRegister_false {g : Nat} {k : Bool → Prog} {rest : List Bool} (he : s.env.irqAnswers = false :: rest) :
    (Prog.irqRegister g k).Ends s r t ↔ (k false).Ends (s.modEnv fun e => { e with irqAnswers := rest }) r t :=
  Reaches.ends_iff (reaches_event (a := .flag false) (by simp [he]))

/-- The transform collaborator answers inside its contract (42 R216). -/
theorem ends_segment {c : Nat} {k : List Handle × Bool → Prog} {a : SegmentAnswer} {rest : List SegmentAnswer}
    (he : s.env.segAnswers = a :: rest) (hs : segmentsOk s a.segs = true) :
    (segment c k).Ends s r t ↔ (k (a.segs.map Prod.fst, a.complete)).Ends
      ((s.modEnv fun e => { e with segAnswers := rest }).addSegments c a.segs) r t :=
  Reaches.ends_iff (reaches_event (a := .segments _ _) (by simp [he, hs]))

/-! ### The recycle pool (41) -/

/-- `pop` of a list with a head (41 R180). -/
theorem ends_popLocal_cons {c : Nat} {k : Option Handle → Prog} {h : Handle} {l : List Handle}
    (hl : (s.bank c).localList = h :: l) :
    (popLocal c k).Ends s r t ↔ (k (some h)).Ends ((s.setLocal c l).setOwner h (.held c)) r t :=
  Reaches.ends_iff (reaches_event (a := .handle (some h)) (by simp [hl]))

/-- `pop` of an empty list (41 R180). -/
theorem ends_popLocal_nil {c : Nat} {k : Option Handle → Prog} (hl : (s.bank c).localList = []) :
    (popLocal c k).Ends s r t ↔ (k none).Ends s r t :=
  Reaches.ends_iff (reaches_event (a := .handle none) (by simp [hl]))

/-- `pop` of a list that was just filled (41 R185). -/
theorem ends_popFilled {c : Nat} {k : Option Handle → Prog} {h : Handle} {l : List Handle}
    (hl : (s.bank c).localList = h :: l) :
    (popFilled c k).Ends s r t ↔ (k (some h)).Ends ((s.setLocal c l).setOwner h (.held c)) r t :=
  Reaches.ends_iff (reaches_event (a := .handle (some h)) (by simp [hl]))

/-- `push` on a list with room (41 R180). -/
theorem ends_pushEmptied {c : Nat} {h : Handle} (hl : (s.bank c).localList.length < s.params.recycleMax) :
    (pushEmptied c h p).Ends s r t ↔
      p.Ends ((s.setLocal c (h :: (s.bank c).localList)).setOwner h (.localList c)) r t :=
  Reaches.ends_iff (reaches_event (a := .unit) (by simp [hl]))

/-- `ACQUIRE` from the local list (41 R185). -/
theorem ends_acquire_local {c : Nat} {k : Option Handle → Prog} {h : Handle} {l : List Handle}
    (hl : (s.bank c).localList = h :: l) :
    (acquire c k).Ends s r t ↔ (k (some h)).Ends ((s.setLocal c l).setOwner h (.held c)) r t :=
  ends_popLocal_cons hl

/-- `ACQUIRE` with the local list empty and the global list not (41 R186): one swap, then the head. -/
theorem ends_acquire_swap {c : Nat} {k : Option Handle → Prog} {h : Handle} {l : List Handle}
    (hl : (s.bank c).localList = []) (hg : s.pool.global = h :: l) (hk : s.pool.lock = .free) (hc : c < 16) :
    (acquire c k).Ends s r t ↔ (k (some h)).Ends (((s.swapLists c).setLocal c l).setOwner h (.held c)) r t := by
  have lock : ((s.setLock .pool (.held c)).swapLists c).setLock .pool .free = s.swapLists c := by
    simp only [State.swapLists_eq]
    cases s with | mk _ _ _ _ _ _ _ _ _ pool => cases pool; cases hk; rfl
  rw [acquire, ends_popLocal_nil hl]
  simp only [ends_lock (n := .pool) (c := c) hk, ends_askFlag]
  simp only [State.setLock, State.modPool_pool, hg, List.isEmpty_cons, Bool.not_false, if_true, ends_set, ends_unlock]
  simp only [State.setLock] at lock
  rw [lock, ends_popFilled]
  simp [State.bank_swapLists, State.setLocal, hc, hg]

/-- The lock of the pool taken and given back changes nothing. -/
theorem lock_unlock_pool (c : Nat) (hk : s.pool.lock = .free) :
    (s.setLock .pool (.held c)).setLock .pool .free = s := by
  cases s with | mk _ _ _ _ _ _ _ _ _ pool => cases pool; cases hk; rfl

/-- `ACQUIRE` with both lists empty asks the allocator (41 R185). -/
theorem ends_acquire_alloc {c : Nat} {k : Option Handle → Prog} (hl : (s.bank c).localList = [])
    (hg : s.pool.global = []) (hk : s.pool.lock = .free) :
    (acquire c k).Ends s r t ↔ (Prog.alloc c k).Ends s r t := by
  rw [acquire, ends_popLocal_nil hl]
  simp only [ends_lock (n := .pool) (c := c) hk, ends_askFlag]
  simp only [State.setLock, State.modPool_pool, hg, List.isEmpty_nil, Bool.not_true, Bool.false_eq_true, if_false,
    ends_unlock]
  exact iff_of_eq (congrArg (fun u => (Prog.alloc c k).Ends u r t) (lock_unlock_pool c hk))

/-- `RELEASE` of a handle that is not recycleable (41 R189). -/
theorem ends_release_free {c : Nat} {h : Handle} (hr : s.recycleable h = false) :
    (release c h p).Ends s r t ↔ p.Ends (s.freeBuf h) r t := by simp [release, hr]

/-- `RELEASE` on a local list with room (41 R189). -/
theorem ends_release_push {c : Nat} {h : Handle} (hr : s.recycleable h = true)
    (hl : (s.bank c).localList.length < s.params.recycleMax) :
    (release c h p).Ends s r t ↔
      p.Ends ((s.setLocal c (h :: (s.bank c).localList)).setOwner h (.localList c)) r t := by
  simp [release, hr, pushLocal, hl]

/-- `RELEASE` on a full local list with the global list empty (41 R190): one swap, then the push. -/
theorem ends_release_swap {c : Nat} {h : Handle} (hr : s.recycleable h = true)
    (hl : s.params.recycleMax ≤ (s.bank c).localList.length) (hm : 0 < s.params.recycleMax)
    (hg : s.pool.global = []) (hk : s.pool.lock = .free) (hc : c < 16) :
    (release c h p).Ends s r t ↔ p.Ends (((s.swapLists c).setLocal c [h]).setOwner h (.localList c)) r t := by
  have lock : ((s.setLock .pool (.held c)).swapLists c).setLock .pool .free = s.swapLists c := by
    simp only [State.swapLists_eq]
    cases s with | mk _ _ _ _ _ _ _ _ _ pool => cases pool; cases hk; rfl
  have hn : ¬ (s.bank c).localList.length < s.params.recycleMax := by omega
  simp only [release, ends_askFlag, hr, pushLocal, ends_testAndSet, hn, decide_false, Bool.not_true,
    Bool.false_eq_true, if_false, ends_lock (n := .pool) (c := c) hk]
  simp only [State.setLock, State.modPool_pool, hg, List.isEmpty_nil, if_true, ends_set, ends_unlock]
  simp only [State.setLock] at lock
  have local' : ((s.swapLists c).bank c).localList = [] := by simp [State.bank_swapLists, State.setLocal, hc, hg]
  rw [lock, ends_pushEmptied (by rw [local']; simpa [State.swapLists_eq, State.setLocal] using hm), local']

/-- `RELEASE` with both lists full (41 R190). -/
theorem ends_release_full {c : Nat} {h : Handle} (hr : s.recycleable h = true)
    (hl : s.params.recycleMax ≤ (s.bank c).localList.length) (hg : s.pool.global ≠ []) (hk : s.pool.lock = .free) :
    (release c h p).Ends s r t ↔ p.Ends (s.freeBuf h) r t := by
  have hn : ¬ (s.bank c).localList.length < s.params.recycleMax := by omega
  have hg' : s.pool.global.isEmpty = false := by cases hx : s.pool.global <;> simp_all
  simp only [release, ends_askFlag, hr, pushLocal, ends_testAndSet, hn, decide_false, Bool.not_true,
    Bool.false_eq_true, if_false, ends_lock (n := .pool) (c := c) hk]
  simp only [State.setLock, State.modPool_pool, hg', Bool.false_eq_true, if_false, ends_unlock, ends_free]
  exact iff_of_eq (congrArg (fun u : State => p.Ends (u.freeBuf h) r t) (lock_unlock_pool c hk))

/-! ### Lists of steps -/

/-- Steps of a list that each change the state by `g`. -/
theorem ends_forEach {β : Type} (l : List β) {body : β → Prog → Prog} (g : State → β → State)
    (h : ∀ b ∈ l, ∀ (k : Prog) (s : State), (body b k).Reaches s k (g s b)) :
    (Prog.forEach l body p).Ends s r t ↔ p.Ends (l.foldl g s) r t :=
  (reaches_forEach l body g h p s).ends_iff

/-- Steps of a list that each write the state once. -/
@[simp] theorem ends_forEach_set {β : Type} (l : List β) (g : β → State → State) :
    (Prog.forEach l (fun b rest => Prog.set (g b) rest) p).Ends s r t ↔ p.Ends (l.foldl (fun s b => g b s) s) r t :=
  ends_forEach l _ fun b _ _ _ => reaches_set (g b)

/-- `Free` of every handle of a list (45 R333). -/
@[simp] theorem ends_forEach_free (hs : List Handle) :
    (Prog.forEach hs Prog.free p).Ends s r t ↔ p.Ends (hs.foldl State.freeBuf s) r t :=
  ends_forEach hs _ fun b _ _ _ => reaches_free b

/-- The last write of a local list is the one that counts. -/
@[simp] theorem State.setLocal_setLocal (s : State) (c : Nat) (l l' : List Handle) :
    (s.setLocal c l).setLocal c l' = s.setLocal c l' := by
  by_cases hc : c < 16
  · exact State.modBank_modBank _ _ _ _ hc
  · have hb : ∀ (s : State) f, s.modBank c f = s := fun s f => by
      cases s; simp [State.modBank, bankSet, Vector.setIfInBounds, Array.setIfInBounds, hc]
    simp [State.setLocal, hb]

/-- Freeing buffers and writing a local list do not meet. -/
theorem State.freeAll_setLocal (s : State) (c : Nat) (l hs : List Handle) :
    hs.foldl State.freeBuf (s.setLocal c l) = (hs.foldl State.freeBuf s).setLocal c l := by
  induction hs generalizing s with
  | nil => rfl
  | cons h hs ih => exact ih (s.freeBuf h)

/-- The handles of a local list taken out and freed one by one, then the list emptied: they are freed and the list is
empty (41 R182). -/
theorem State.freeLocal_all (s : State) (c : Nat) (hs : List Handle) :
    (hs.foldl (fun s h => s.freeLocal c h) s).setLocal c [] = (hs.foldl State.freeBuf s).setLocal c [] := by
  induction hs generalizing s with
  | nil => rfl
  | cons h hs ih =>
    refine (ih _).trans ?_
    dsimp only [State.freeLocal, List.foldl_cons]
    rw [show ∀ l, (s.setLocal c l).freeBuf h = (s.freeBuf h).setLocal c l from fun _ => rfl, State.freeAll_setLocal,
      State.setLocal_setLocal]

/-- As `freeLocal_all`, for the global list. -/
theorem State.freeGlobal_all (s : State) (hs : List Handle) :
    ((hs.foldl State.freeGlobal s).modPool fun p => { p with global := [] }) =
      (hs.foldl State.freeBuf s).modPool fun p => { p with global := [] } := by
  have comm : ∀ (f : Pool → Pool) (hs : List Handle) (s : State),
      hs.foldl State.freeBuf (s.modPool f) = (hs.foldl State.freeBuf s).modPool f := by
    intro f hs
    induction hs with
    | nil => exact fun _ => rfl
    | cons h hs ih => exact fun s => ih (s.freeBuf h)
  induction hs generalizing s with
  | nil => rfl
  | cons h hs ih =>
    refine (ih _).trans ?_
    dsimp only [State.freeGlobal, List.foldl_cons]
    rw [show ∀ f, (s.modPool f).freeBuf h = (s.freeBuf h).modPool f from fun _ => rfl, comm]
    rfl

/-- Purging the pool frees the buffers of every local list and empties it, and then those of the global list (41
R182). -/
@[simp] theorem ends_poolPurge : (poolPurge p).Ends s r t ↔ p.Ends s.purged r t := by
  rw [poolPurge, ends_askNat, ends_forEach (List.range s.params.numCpus) fun s c =>
    ((s.bank c).localList.foldl State.freeBuf s).setLocal c []]
  · rw [ends_askHandles, ends_forEach_set, ends_set]
    exact iff_of_eq (congrArg (fun u => p.Ends u r t) (State.freeGlobal_all _ _))
  · intro c _ k s
    rw [← State.freeLocal_all]
    exact (reaches_askHandles _ _).trans
      ((reaches_forEach _ _ (fun s h => s.freeLocal c h) (fun h _ _ _ => reaches_set _) _ s).trans (reaches_set _))

/-! ### The descriptor ring (40) -/

/-- `SLOT_READY` reads the slot's word (40 R169). -/
theorem ends_slotReady {kd : Kind} {q i : Nat} {k : Bool → Word → Prog} (h : s.desc kd q i + 4 ≤ addressSpace) :
    (slotReady kd q i k).Ends s r t ↔
      (k (!engineOwned (readWord s.mem (s.desc kd q i))) (readWord s.mem (s.desc kd q i))).Ends s r t :=
  ends_read32 h

/-- `RING_NEXT` reads the slot's word (40 R172). -/
theorem ends_ringNext {kd : Kind} {q i : Nat} {k : Nat → Prog} (h : s.desc kd q i + 4 ≤ addressSpace) :
    (ringNext kd q i k).Ends s r t ↔
      (k (if wrapFlag (readWord s.mem (s.desc kd q i)) then 0 else i + 1)).Ends s r t :=
  ends_read32 h

/-- `ARM_RX` writes the address, then the flags (40 R166). -/
theorem ends_armRx {q i : Nat} {a : DWord} (h : s.desc .rx q i + 16 ≤ addressSpace) :
    (armRx q i a p).Ends s r t ↔
      p.Ends (s.setMem (armed s.mem (s.desc .rx q i) a (lstatusOf (armStatus i (s.rx q).n) 0))) r t := by
  rw [armRx, ends_askNat, ends_write64 (by omega), ends_writeBarrier,
    ends_write32 (by simpa [State.desc, State.ringBase] using (by omega : s.desc .rx q i + 4 ≤ addressSpace))]
  exact Iff.rfl

/-- `rearm` maps the buffer and arms the slot with its address (43 R232). -/
theorem ends_rearm {q i : Nat} {x : Handle} (h : s.desc .rx q i + 16 ≤ addressSpace) :
    (rearm q i x p).Ends s r t ↔
      p.Ends ((s.setMapped x .fromDevice).setMem
        (armed s.mem (s.desc .rx q i) (s.phys x) (lstatusOf (armStatus i (s.rx q).n) 0))) r t := by
  have phys : (s.setMapped x .fromDevice).phys x = s.phys x := by
    simp only [State.phys, State.setMapped, State.buf_modBuf_same]
    cases s.buf x <;> rfl
  rw [rearm, ends_set, ends_askDWord, phys]
  exact ends_armRx (s := s.setMapped x .fromDevice) h

/-- `RING_INIT` with memory from the allocator (40 R162). -/
theorem ends_ringInit_some {kd : Kind} {q n : Nat} {k : Bool → Prog} {base : DWord} {rest : List (Option DWord)}
    (he : s.env.ringAnswers = some base :: rest) (ha : base.toNat % 16 = 0)
    (hf : s.freshRange base.toNat (16 * n) = true) (hn : 0 < n) :
    (ringInit kd q n k).Ends s r t ↔ (k true).Ends (((((((((s.modEnv fun e => { e with ringAnswers := rest }).setRings
      ((base.toNat, 16 * n) :: s.liveRings)).setMem (freshRing s.mem base.toNat n)).setRing kd q base n).clearInflight
      kd q n).freshCursors kd q n).setCoalescer kd q 0 0).setAlloc kd q true)) r t := by
  have fits : base.toNat + 16 * n ≤ addressSpace := by
    simp only [State.freshRange, Bool.and_eq_true, decide_eq_true_eq] at hf
    exact hf.1.1
  rw [ringInit, ends_allocRing_some he ha hf]
  dsimp only
  rw [ends_forEach (List.range n) fun s i => s.setMem (zeroSlot s.mem (base.toNat + 16 * i)),
    State.foldl_setMem _ (fun m i => zeroSlot m (base.toNat + 16 * i)), ends_write32 (by omega)]
  · simp only [ends_set]
    rfl
  · intro i hi k u
    have hi : i < n := List.mem_range.1 hi
    exact ((reaches_write32 _ (by omega)).trans (reaches_write32 _ (by omega))).trans
      (reaches_write64 _ (by omega))

/-- `RING_INIT` without memory (40 R163). -/
theorem ends_ringInit_none {kd : Kind} {q n : Nat} {k : Bool → Prog} {rest : List (Option DWord)}
    (he : s.env.ringAnswers = none :: rest) :
    (ringInit kd q n k).Ends s r t ↔ (k false).Ends (s.modEnv fun e => { e with ringAnswers := rest }) r t :=
  ends_allocRing_none he

/-- Freeing the ring of an allocated queue (40 R165). -/
theorem ends_ringFree {kd : Kind} {q : Nat} (h : s.ringAlloc kd q = true) :
    (ringFree kd q p).Ends s r t ↔ p.Ends ((s.freeRing (s.ringBase kd q).toNat).ringFreed kd q) r t := by
  simp [ringFree, h]

/-- Nothing for a queue without a ring (40 R165). -/
theorem ends_ringFree_unallocated {kd : Kind} {q : Nat} (h : s.ringAlloc kd q = false) :
    (ringFree kd q p).Ends s r t ↔ p.Ends s r t := by simp [ringFree, h]

/-! ### Transmit (42) -/

/-- What passes the tests of `SUBMIT` and `SUBMIT_SEG`: a complete packet of the stack, the queue ready, the device `UP`
(42 R203, R215). -/
theorem submitVerdict_pass {b : Bool} {q : Nat} {h : Handle} :
    submitVerdict b q h s = .pass ↔ b = true ∧ ∃ x, s.buf h = some x ∧ x.live = true ∧ x.owner = .stack ∧
      (s.tx q).phase = .readyForWork ∧ s.dev.devState = .up ∧ wellFormedPacket x.info = true := by
  unfold submitVerdict
  cases b <;> cases s.buf h <;> simp only [Bool.not_true, Bool.not_false, if_true] <;> grind

/-- There is no step for a handle never described (70 R413). -/
theorem submitVerdict_unknown {q : Nat} {h : Handle} (hb : s.buf h = none) :
    submitVerdict true q h s = .refuse .unknownHandle := by simp [submitVerdict, hb]

/-- Two changes of one entry are one. -/
theorem changeBuf_changeBuf (t : List (Handle × Buffer)) (h : Handle) (f g : Buffer → Buffer) :
    changeBuf (changeBuf t h f) h g = changeBuf t h (g ∘ f) := by
  induction t with
  | nil => rfl
  | cons e t ih => by_cases he : h = e.1 <;> simp [changeBuf, he, ih]

/-- A change that leaves an entry as it is leaves the table as it is. -/
theorem changeBuf_self {t : List (Handle × Buffer)} {h : Handle} {f : Buffer → Buffer}
    (hf : ∀ b, findBuf t h = some b → f b = b) : changeBuf t h f = t := by
  induction t with
  | nil => rfl
  | cons e t ih =>
    by_cases he : h = e.1
    · have := hf e.2 (by simp [findBuf, he])
      simp [changeBuf, he, this]
    · simp only [changeBuf, he, if_false]
      rw [ih fun b hb => hf b (by simpa [findBuf, he] using hb)]

/-- A packet of the stack that an operation takes and gives back leaves the table as it was (42 R203, R215; log 43). -/
theorem changeBuf_takeBack {h : Handle} {o : Owner} (ho : s.owner h = some .stack) :
    changeBuf (changeBuf s.bufs h fun b => { b with owner := o }) h (fun b => { b with owner := .stack }) = s.bufs := by
  rw [changeBuf_changeBuf]
  refine changeBuf_self fun b hb => ?_
  have : b.owner = .stack := by simpa [State.owner, State.buf, hb] using ho
  simp [← this]

/-- The entries of the table after a submit took its packet: the packet is held, every other entry stays. -/
theorem buf_takePacket {c q : Nat} {h x : Handle} : (s.takePacket c q h).buf x =
    if x = h then (s.buf x).map (fun b => { b with owner := .submitted c }) else s.buf x :=
  State.buf_modBuf (s.setPhase q .spaceCheck) h x _

/-- The descriptor count of a packet does not depend on its owner. -/
theorem required_takePacket {c q : Nat} {h x : Handle} : (s.takePacket c q h).required x = s.required x := by
  by_cases hx : x = h <;> simp [State.required, buf_takePacket, hx, Function.comp_def]

/-- The regions of a packet do not depend on its owner. -/
theorem regions_takePacket {c q : Nat} {h x : Handle} : (s.takePacket c q h).regions x = s.regions x := by
  by_cases hx : x = h <;> simp [State.regions, buf_takePacket, hx, Function.comp_def]

/-- The gate of `SUBMIT` and `SUBMIT_SEG` passed: the operation holds the packet (42 R203, R215; 10 R32). -/
theorem ends_submitGate_pass {c : Nat} {f : State → Bool} {q : Nat} {h : Handle} {k : Code → Prog}
    (hv : submitVerdict (f s) q h s = .pass) :
    (submitGate c f q h k).Ends s r t ↔ (k .ok).Ends (s.takePacket c q h) r t :=
  Reaches.ends_iff (reaches_gate_pass _ _ hv)

/-- The gate of `SUBMIT` and `SUBMIT_SEG` not passed: the code of the first test that fails (42 R203, R212, R215). -/
theorem ends_submitGate_code {c : Nat} {f : State → Bool} {q : Nat} {h : Handle} {k : Code → Prog} {v : Code}
    (hv : submitVerdict (f s) q h s = .code v) : (submitGate c f q h k).Ends s r t ↔ (k v).Ends s r t :=
  Reaches.ends_iff (reaches_gate_code _ _ hv)

end Prog

/-! ### What the memory of a ring reads as -/

/-- A slot after it was armed (40 R166). -/
theorem readWord_armed (m : List Host.Cell) (d : Nat) (a : DWord) (w : Word) (h : (m.map Prod.fst).Pairwise (· < ·)) :
    readWord (armed m d a w) d = w :=
  readWord_writeWord _ _ _ (sorted_writeBytes _ _ _ h)

/-- The address of a slot after it was armed (40 R166). -/
theorem readDWord_armed (m : List Host.Cell) (d : Nat) (a : DWord) (w : Word) (h : (m.map Prod.fst).Pairwise (· < ·)) :
    readDWord (armed m d a w) (d + 8) = a := by
  rw [armed, writeWord, readDWord_writeBytes_apart _ _ _ _ (by exact sorted_writeBytes _ _ _ h) (by simp),
    readDWord_writeDWord _ _ _ h]

/-- A byte outside a slot after the slot was armed (40 R166). -/
theorem readByte_armed_outside (m : List Host.Cell) (d x : Nat) (a : DWord) (w : Word)
    (h : (m.map Prod.fst).Pairwise (· < ·)) (hx : (x < d ∨ d + 4 ≤ x) ∧ (x < d + 8 ∨ d + 16 ≤ x)) :
    readByte (armed m d a w) x = readByte m x := by
  rw [armed, writeWord, readByte_writeBytes_outside _ _ _ _ (by exact sorted_writeBytes _ _ _ h) (by simpa using hx.1),
    writeDWord, readByte_writeBytes_outside _ _ _ _ h (by simpa [Nat.add_assoc] using hx.2)]

/-- Writing a slot of zeros keeps the addresses rising. -/
theorem sorted_zeroSlot (m : List Host.Cell) (d : Nat) (h : (m.map Prod.fst).Pairwise (· < ·)) :
    ((zeroSlot m d).map Prod.fst).Pairwise (· < ·) :=
  sorted_writeBytes _ _ _ (sorted_writeBytes _ _ _ (sorted_writeBytes _ _ _ h))

/-- A slot of zeros is one write of sixteen bytes. -/
theorem zeroSlot_eq (m : List Host.Cell) (d : Nat) : zeroSlot m d = writeBytes m d (List.replicate 16 0) := by
  have h : List.replicate 16 (0 : Byte) = wordBytes 0 ++ (wordBytes 0 ++ dwordBytes 0) := by decide
  rw [h, writeBytes_append, writeBytes_append]
  rfl

/-- Slots of zeros, one after another, are one write of zeros. -/
theorem foldl_zeroSlot (m : List Host.Cell) (base n : Nat) :
    (List.range n).foldl (fun m i => zeroSlot m (base + 16 * i)) m =
      writeBytes m base (List.replicate (16 * n) 0) := by
  induction n with
  | zero => rfl
  | succ n ih =>
    rw [List.range_succ, List.foldl_append, ih, List.foldl_cons, List.foldl_nil, zeroSlot_eq,
      show 16 * (n + 1) = 16 * n + 16 by omega, ← List.replicate_append_replicate, writeBytes_append, List.length_replicate]

/-- A byte of memory after a ring was made (40 R162): zero in the ring, but for the flag byte of its last slot. -/
theorem readByte_freshRing (m : List Host.Cell) (base n x : Nat) (h : (m.map Prod.fst).Pairwise (· < ·))
    (hn : 0 < n) :
    readByte (freshRing m base n) x =
      if x = base + 16 * (n - 1) then 0x20
      else if base ≤ x ∧ x < base + 16 * n then 0 else readByte m x := by
  have hs := sorted_writeBytes m base (List.replicate (16 * n) 0) h
  rw [freshRing, foldl_zeroSlot, writeWord]
  by_cases hx : base + 16 * (n - 1) ≤ x ∧ x < base + 16 * (n - 1) + 4
  · obtain ⟨i, rfl⟩ : ∃ i, x = base + 16 * (n - 1) + i := ⟨x - (base + 16 * (n - 1)), by omega⟩
    rw [readByte_writeBytes_inside _ _ i (wordBytes 0x20000000) hs (by simp; omega)]
    have hi : i < 4 := by omega
    match i, hi with
    | 0, _ => simp [wordBytes]
    | 1, _ => rw [if_neg (by omega), if_pos (by omega)]; rfl
    | 2, _ => rw [if_neg (by omega), if_pos (by omega)]; rfl
    | 3, _ => rw [if_neg (by omega), if_pos (by omega)]; rfl
  · rw [readByte_writeBytes_outside _ _ _ _ hs (by simp; omega), if_neg (by omega)]
    by_cases hr : base ≤ x ∧ x < base + 16 * n
    · obtain ⟨i, rfl⟩ : ∃ i, x = base + i := ⟨x - base, by omega⟩
      rw [readByte_writeBytes_inside _ _ i _ h (by simp; omega), if_pos hr]
      simp
    · rw [readByte_writeBytes_outside _ _ _ _ h (by simp; omega), if_neg hr]

end Sys2Proof.Machine
end

