-- ==== Sys2Proof/Laws/PerInstr.lean ====
section
/-! SUPPORT. The family `EncodeRoundTrip`: the fields an operation is written with decode to that operation (spec 30
R127, R140), one lemma per constructor of `Instr`. -/

namespace Sys2Proof.Laws.EncodeRoundTrip

/-- The fields an operation is written with decode to it. -/
def Statement (i : Instr) : Prop := decodeFields (encodeFields i) = .ok i

theorem nop (c : BitVec 8) : Statement (.nop c) := rfl

theorem poolInit (c : BitVec 8) : Statement (.poolInit c) := rfl

theorem poolTeardown (c : BitVec 8) : Statement (.poolTeardown c) := rfl

theorem acquire (c : BitVec 8) : Statement (.acquire c) := rfl

theorem release (c : BitVec 8) : Statement (.release c) := rfl

theorem submit (c : BitVec 8) (q : BitVec 8) : Statement (.submit c q) := rfl

theorem submitSeg (c : BitVec 8) (q : BitVec 8) : Statement (.submitSeg c q) := rfl

theorem irq (c : BitVec 8) (g : BitVec 8) : Statement (.irq c g) := rfl

theorem groupPoll (c : BitVec 8) (g : BitVec 8) : Statement (.groupPoll c g) := rfl

theorem maskAll (c : BitVec 8) (g : BitVec 8) : Statement (.maskAll c g) := rfl

theorem unmaskDefault (c : BitVec 8) (g : BitVec 8) : Statement (.unmaskDefault c g) := rfl

theorem setCoalesce (c : BitVec 8) (kind : Kind) (q : BitVec 8) : Statement (.setCoalesce c kind q) := by
  cases kind <;> simp [Statement, decodeFields, encodeFields, kindedOp, bitOfKind, kindOfBit]

theorem start (c : BitVec 8) : Statement (.start c) := rfl

theorem halt (c : BitVec 8) : Statement (.halt c) := rfl

theorem changeMtu (c : BitVec 8) : Statement (.changeMtu c) := rfl

theorem linkChange (c : BitVec 8) (up : Bool) (full : Bool) : Statement (.linkChange c up full) := by
  cases up <;> cases full <;> simp [Statement, decodeFields, encodeFields, linkOp]

theorem resetTask (c : BitVec 8) : Statement (.resetTask c) := rfl

theorem txTimeout (c : BitVec 8) (q : BitVec 8) : Statement (.txTimeout c q) := rfl

theorem readStats (c : BitVec 8) : Statement (.readStats c) := rfl

theorem ringInit (c : BitVec 8) (kind : Kind) (q : BitVec 8) : Statement (.ringInit c kind q) := by
  cases kind <;> simp [Statement, decodeFields, encodeFields, kindedOp, bitOfKind, kindOfBit]

theorem armRx (c : BitVec 8) (q : BitVec 8) : Statement (.armRx c q) := rfl

theorem slotReady (c : BitVec 8) (kind : Kind) (q : BitVec 8) : Statement (.slotReady c kind q) := by
  cases kind <;> simp [Statement, decodeFields, encodeFields, kindedOp, bitOfKind, kindOfBit]

theorem ringNext (c : BitVec 8) (kind : Kind) (q : BitVec 8) : Statement (.ringNext c kind q) := by
  cases kind <;> simp [Statement, decodeFields, encodeFields, kindedOp, bitOfKind, kindOfBit]

theorem rxPoll (c : BitVec 8) (q : BitVec 8) : Statement (.rxPoll c q) := rfl

theorem txPoll (c : BitVec 8) (q : BitVec 8) : Statement (.txPoll c q) := rfl

end Sys2Proof.Laws.EncodeRoundTrip
end

