-- ==== Sys2Proof/Laws/Updates.lean ====
section
/-! SUPPORT. What a step can do, said once: a step that answers a next state is a sequence of the atomic updates of
`Update`. An invariant that every atomic update keeps is kept by every step. -/

namespace Sys2Proof.Machine

/-- The atomic updates of the machine, each with what it does to the parts that carry an invariant: the coalescer's
counters stay in range, the pool's lists lose handles, are pushed while there is room or exchanged, `LASTERR` never
goes back to no fault, memory is written inside the address space, the buffer table is changed entry by entry. -/
inductive Update : State → State → Prop where
  | rx (s : State) (q : Nat) (f : RxQueue → RxQueue) (h : ∀ r, (f r).pend = r.pend ∧ (f r).elapsed = r.elapsed) :
      Update s (s.modRx q f)
  | tx (s : State) (q : Nat) (f : TxQueue → TxQueue) (h : ∀ r, (f r).pend = r.pend ∧ (f r).elapsed = r.elapsed) :
      Update s (s.modTx q f)
  | coalescer (s : State) (k : Kind) (q p e : Nat) (hp : p ≤ 255 ∨ p = s.pend k q)
      (he : e ≤ 65535 ∨ e = s.elapsed k q) :
      Update s (s.setCoalescer k q p e)
  | grp (s : State) (g : Nat) (f : Group → Group) : Update s (s.modGrp g f)
  | bank (s : State) (c : Nat) (f : Bank → Bank) (h : ∀ b, (f b).localList = b.localList) : Update s (s.modBank c f)
  | takeLocal (s : State) (c : Nat) (l : List Handle) (hl : l.Sublist (s.bank c).localList) :
      Update s (s.setLocal c l)
  | pushLocal (s : State) (c : Nat) (h : Handle) (hl : (s.bank c).localList.length < s.params.recycleMax) :
      Update s (s.setLocal c (h :: (s.bank c).localList))
  | swap (s : State) (c : Nat) :
      Update s ((s.setLocal c s.pool.global).modPool fun p => { p with global := (s.bank c).localList })
  | pool (s : State) (f : Pool → Pool) (h : ∀ p, (f p).global.Sublist p.global) :
      Update s (s.modPool f)
  | dev (s : State) (f : Device → Device) (h : ∀ d, (f d).lastErr = d.lastErr ∨ (f d).lastErr ≠ .none) :
      Update s (s.modDev f)
  | memory (s : State) (a : Nat) (bs : List Byte) (h : a + bs.length ≤ addressSpace) :
      Update s (s.setMem (writeBytes s.mem a bs))
  | buffer (s : State) (h : Handle) (f : Buffer → Buffer) : Update s (s.modBuf h f)
  | newBuffer (s : State) (h : Handle) (b : Buffer) : Update s (s.setBufs (insertBuf s.bufs h b))
  | rings (s : State) (r : List (Nat × Nat)) : Update s (s.setRings r)
  | erx (s : State) (q : Nat) (f : EngineRx → EngineRx) : Update s (s.modErx q f)
  | etx (s : State) (q : Nat) (f : EngineTx → EngineTx) : Update s (s.modEtx q f)
  | env (s : State) (f : Env → Env) : Update s (s.modEnv f)
  | agenda (s : State) (a : List Move) : Update s (s.setAgenda a)
  | count (s : State) (k : Nat) : Update s (s.count k)
  | snapshot (s : State) : Update s s.snapshot

/-- A sequence of atomic updates. -/
inductive Updates : State → State → Prop where
  | refl (s : State) : Updates s s
  | step {s t u : State} (h : Updates s t) (hu : Update t u) : Updates s u

namespace Updates

variable {s t u : State}

theorem one (h : Update s t) : Updates s t := .step (.refl s) h

theorem trans (h : Updates s t) (h' : Updates t u) : Updates s u := by
  induction h' with
  | refl => exact h
  | step _ hu ih => exact ih.step hu

/-- An invariant that every atomic update keeps is kept by a sequence of them. -/
theorem keep {I : State → Prop} (hI : ∀ s t, I s → Update s t → I t) (h : Updates s t) (hs : I s) : I t := by
  induction h with
  | refl => exact hs
  | step _ hu ih => exact hI _ _ ih hu

theorem foldl {β : Type} (l : List β) (f : State → β → State) (h : ∀ s b, Updates s (f s b)) :
    Updates s (l.foldl f s) := by
  induction l generalizing s with
  | nil => exact .refl s
  | cons b l ih => exact (h s b).trans ih

/-! ### The operations over the state -/

theorem setRingQueue (k : Kind) (q : Nat) (b : DWord) (n : Nat) : Updates s (s.setRing k q b n) := by
  cases k
  · dsimp only [State.setRing]
    exact .one (.rx s q _ fun _ => ⟨rfl, rfl⟩)
  · dsimp only [State.setRing]
    exact .one (.tx s q _ fun _ => ⟨rfl, rfl⟩)

theorem clearInflight (k : Kind) (q n : Nat) : Updates s (s.clearInflight k q n) := by
  cases k
  · dsimp only [State.clearInflight]
    exact .one (.rx s q _ fun _ => ⟨rfl, rfl⟩)
  · dsimp only [State.clearInflight]
    exact .one (.tx s q _ fun _ => ⟨rfl, rfl⟩)

theorem freshCursors (k : Kind) (q n : Nat) : Updates s (s.freshCursors k q n) := by
  cases k
  · dsimp only [State.freshCursors]
    exact .one (.rx s q _ fun _ => ⟨rfl, rfl⟩)
  · dsimp only [State.freshCursors]
    exact .one (.tx s q _ fun _ => ⟨rfl, rfl⟩)

theorem setAlloc (k : Kind) (q : Nat) (b : Bool) : Updates s (s.setAlloc k q b) := by
  cases k
  · dsimp only [State.setAlloc]
    exact .one (.rx s q _ fun _ => ⟨rfl, rfl⟩)
  · dsimp only [State.setAlloc]
    exact .one (.tx s q _ fun _ => ⟨rfl, rfl⟩)

theorem ringFreed (k : Kind) (q : Nat) : Updates s (s.ringFreed k q) := by
  cases k
  · dsimp only [State.ringFreed]
    exact .one (.rx s q _ fun _ => ⟨rfl, rfl⟩)
  · dsimp only [State.ringFreed]
    exact .one (.tx s q _ fun _ => ⟨rfl, rfl⟩)

theorem setIc (k : Kind) (q : Nat) (v : Coalesce) : Updates s (s.setIc k q v) := by
  cases k
  · dsimp only [State.setIc]
    exact .one (.rx s q _ fun _ => ⟨rfl, rfl⟩)
  · dsimp only [State.setIc]
    exact .one (.tx s q _ fun _ => ⟨rfl, rfl⟩)

theorem setLock (n : LockName) (l : Lock) : Updates s (s.setLock n l) := by
  cases n with
  | pool =>
    dsimp only [State.setLock]
    exact .one (.pool s _ fun _ => .refl _)
  | rx q =>
    dsimp only [State.setLock]
    exact .one (.rx s q _ fun _ => ⟨rfl, rfl⟩)
  | tx q =>
    dsimp only [State.setLock]
    exact .one (.tx s q _ fun _ => ⟨rfl, rfl⟩)

theorem setOwner (h : Handle) (o : Owner) : Updates s (s.setOwner h o) := .one (.buffer s h _)

theorem setMapped (h : Handle) (m : Mapping) : Updates s (s.setMapped h m) := .one (.buffer s h _)

theorem freeBuf (h : Handle) : Updates s (s.freeBuf h) := .one (.buffer s h _)

theorem freeLocal (c : Nat) (h : Handle) : Updates s (s.freeLocal c h) :=
  (one (.takeLocal s c _ List.filter_sublist)).trans (freeBuf h)

theorem freeGlobal (h : Handle) : Updates s (s.freeGlobal h) :=
  (one (.pool s _ fun _ => List.filter_sublist)).trans (freeBuf h)

theorem setOwners (hs : List Handle) (o : Owner) : Updates s (s.setOwners hs o) := foldl _ _ fun _ _ => setOwner _ _

theorem swapLists (c : Nat) : Updates s (s.swapLists c) :=
  ((one (.swap s c)).trans (setOwners _ _)).trans (setOwners _ _)

theorem raiseEvent (g : Option Nat) (b : BitVec 2) : Updates s (s.raiseEvent g b) := by
  cases g with
  | none => exact .refl s
  | some g =>
    dsimp only [State.raiseEvent]
    exact .one (.grp s g _)

theorem coalesceEval (k : Kind) (q : Nat) : Updates s (s.coalesceEval k q) := by
  unfold State.coalesceEval
  split
  · exact (raiseEvent _ _).step (.coalescer _ k q 0 0 (by omega) (by omega))
  · exact .refl s

theorem coalescePulse (k : Kind) (q : Nat) : Updates s (s.coalescePulse k q) := by
  unfold State.coalescePulse
  refine (one (.coalescer s k q _ _ (.inl (by omega)) ?_)).trans (coalesceEval _ _)
  split
  · exact .inl (by omega)
  · exact .inr rfl

theorem writeDmactrl (v : BitVec 2) : Updates s (s.writeDmactrl v) := .one (.dev s _ fun _ => .inl rfl)

theorem doorbell (b : BitVec 8) : Updates s (s.doorbell b) := foldl _ _ fun s q => .one (.etx s q _)

theorem recordFault (f : FaultCode) (h : f ≠ .none) : Updates s (s.recordFault f) :=
  .one (.dev s _ fun _ => .inr h)

theorem finish (c : Nat) (r : Result) : Updates s (s.finish c r) := .one (.bank s c _ fun _ => rfl)

theorem setOp (c : Nat) (o : InProgress) : Updates s (s.setOp c o) := .one (.bank s c _ fun _ => rfl)

theorem write32 (a : Nat) (w : Word) (h : a + 4 ≤ addressSpace) : Updates s (s.setMem (writeWord s.mem a w)) :=
  .one (.memory s a (wordBytes w) h)

theorem write64 (a : Nat) (d : DWord) (h : a + 8 ≤ addressSpace) : Updates s (s.setMem (writeDWord s.mem a d)) :=
  .one (.memory s a (dwordBytes d) h)

theorem setPhase (q : Nat) (p : TxPhase) : Updates s (s.setPhase q p) := .one (.tx s q _ fun _ => ⟨rfl, rfl⟩)

theorem takePacket (c q : Nat) (h : Handle) : Updates s (s.takePacket c q h) :=
  (setPhase q .spaceCheck).trans (setOwner h _)

theorem returnPacket (q : Nat) (h : Handle) : Updates s (s.returnPacket q h) :=
  (setPhase q .readyForWork).trans (setOwner h _)

theorem stopQueue (q : Nat) : Updates s (s.stopQueue q) := .one (.tx s q _ fun _ => ⟨rfl, rfl⟩)

theorem setTxEntry (q i : Nat) (e : TxEntry) : Updates s (s.setTxEntry q i e) :=
  .one (.tx s q _ fun _ => ⟨rfl, rfl⟩)

theorem setRxEntry (q i : Nat) (h : Handle) : Updates s (s.setRxEntry q i h) :=
  (one (.rx s q (fun r => { r with inflight := r.inflight.set i (.buf h) }) fun _ => ⟨rfl, rfl⟩)).trans (setOwner _ _)

theorem freeRxEntry (q i : Nat) (h : Handle) : Updates s (s.freeRxEntry q i h) :=
  (one (.rx s q (fun r => { r with inflight := r.inflight.set i .empty }) fun _ => ⟨rfl, rfl⟩)).trans (freeBuf h)

theorem freeTxEntry (q i : Nat) (h : Handle) : Updates s (s.freeTxEntry q i h) :=
  (setTxEntry q i .empty).trans (freeBuf h)

theorem takeFrame (c q d : Nat) (h : Handle) : Updates s (s.takeFrame c q d h) :=
  ((setMapped h .none).trans (setTxEntry q d .empty)).trans (setOwner h _)

theorem addSegments (c : Nat) (l : List (Handle × BufInfo)) : Updates s (s.addSegments c l) :=
  foldl _ _ fun s _ => .one (.newBuffer s _ _)

theorem deliverUp (h : Handle) (hdr len : Nat) : Updates s (s.deliverUp h hdr len) :=
  (one (.env s _)).trans (setOwner _ _)

theorem setImask (g : Nat) (v : BitVec 2) : Updates s (s.setImask g v) := .one (.grp s g _)

theorem freeRing (b : Nat) : Updates s (s.freeRing b) := .one (.rings s _)

theorem changeLink (up full : Bool) (v : BitVec 16) : Updates s (s.changeLink up full v) := by
  refine .one (.dev s _ fun d => .inl ?_)
  split <;> rfl

end Updates

/-! ### Programs -/

/-- Every event of a program is a sequence of atomic updates. -/
def Prog.Sound : Prog → Prop
  | .ret _ => True
  | .ev f k => (∀ s t r, f s = .ok t r → Updates s t) ∧ ∀ r, (k r).Sound

namespace Prog

variable {p : Prog}

theorem sound_ret (r : Result) : (Prog.ret r).Sound := trivial

theorem sound_done (c : Code) : (Prog.done c).Sound := trivial

theorem sound_set {f : State → State} (hf : ∀ s, Updates s (f s)) (hp : p.Sound) : (Prog.set f p).Sound :=
  ⟨fun s t r h => by cases h; exact hf s, fun _ => hp⟩

theorem sound_writeBarrier (hp : p.Sound) : (Prog.writeBarrier p).Sound := sound_set (fun s => .refl s) hp

theorem sound_readBarrier (hp : p.Sound) : (Prog.readBarrier p).Sound := sound_set (fun s => .refl s) hp

theorem sound_askFlag {f : State → Bool} {k : Bool → Prog} (hk : ∀ b, (k b).Sound) : (Prog.askFlag f k).Sound :=
  ⟨fun s t r h => by cases h; exact .refl s, fun r => hk r.getFlag⟩

theorem sound_askNat {f : State → Nat} {k : Nat → Prog} (hk : ∀ b, (k b).Sound) : (Prog.askNat f k).Sound :=
  ⟨fun s t r h => by cases h; exact .refl s, fun r => hk r.getNat⟩

theorem sound_askDWord {f : State → DWord} {k : DWord → Prog} (hk : ∀ b, (k b).Sound) : (Prog.askDWord f k).Sound :=
  ⟨fun s t r h => by cases h; exact .refl s, fun r => hk r.getDWord⟩

theorem sound_askHandles {f : State → List Handle} {k : List Handle → Prog} (hk : ∀ b, (k b).Sound) :
    (Prog.askHandles f k).Sound := ⟨fun s t r h => by cases h; exact .refl s, fun r => hk r.getHandles⟩

theorem sound_askRegions {f : State → List Region} {k : List Region → Prog} (hk : ∀ b, (k b).Sound) :
    (Prog.askRegions f k).Sound := ⟨fun s t r h => by cases h; exact .refl s, fun r => hk r.getRegions⟩

theorem sound_askRx {f : State → RxEntry} {k : RxEntry → Prog} (hk : ∀ b, (k b).Sound) : (Prog.askRx f k).Sound :=
  ⟨fun s t r h => by cases h; exact .refl s, fun r => hk r.getRx⟩

theorem sound_askTx {f : State → TxEntry} {k : TxEntry → Prog} (hk : ∀ b, (k b).Sound) : (Prog.askTx f k).Sound :=
  ⟨fun s t r h => by cases h; exact .refl s, fun r => hk r.getTx⟩

theorem sound_askRxs {f : State → List RxEntry} {k : List RxEntry → Prog} (hk : ∀ b, (k b).Sound) :
    (Prog.askRxs f k).Sound := ⟨fun s t r h => by cases h; exact .refl s, fun r => hk r.getRxs⟩

theorem sound_askTxs {f : State → List TxEntry} {k : List TxEntry → Prog} (hk : ∀ b, (k b).Sound) :
    (Prog.askTxs f k).Sound := ⟨fun s t r h => by cases h; exact .refl s, fun r => hk r.getTxs⟩

theorem sound_askQueues {f : State → List (Kind × Nat)} {k : List (Kind × Nat) → Prog} (hk : ∀ b, (k b).Sound) :
    (Prog.askQueues f k).Sound := ⟨fun s t r h => by cases h; exact .refl s, fun r => hk r.getQueues⟩

theorem sound_check {f : State → Code} {g : State → State} {k : Code → Prog} (hg : ∀ s, Updates s (g s))
    (hk : ∀ b, (k b).Sound) : (Prog.check f g k).Sound :=
  ⟨fun s t r h => by
    dsimp only at h
    split at h <;> cases h
    · exact hg s
    · exact .refl s, fun r => hk r.getCode⟩

theorem sound_gate {f : State → Verdict} {g : State → State} {k : Code → Prog} (hg : ∀ s, Updates s (g s))
    (hk : ∀ b, (k b).Sound) : (Prog.gate f g k).Sound :=
  ⟨fun s t r h => by
    dsimp only at h
    split at h <;> cases h
    · exact hg s
    · exact .refl s, fun r => hk r.getCode⟩

theorem sound_testAndSet {f : State → Bool} {g : State → State} {k : Bool → Prog}
    (hg : ∀ s, f s = true → Updates s (g s)) (hk : ∀ b, (k b).Sound) : (Prog.testAndSet f g k).Sound :=
  ⟨fun s t r h => by
    dsimp only at h
    split at h <;> cases h
    · exact hg s ‹_›
    · exact .refl s, fun r => hk r.getFlag⟩

theorem sound_await {f : State → Bool} (hp : p.Sound) : (Prog.await f p).Sound :=
  ⟨fun s t r h => by dsimp only at h; split at h <;> cases h; exact .refl s, fun _ => hp⟩

theorem sound_require {f : State → Bool} {x : Refusal} (hp : p.Sound) : (Prog.require f x p).Sound :=
  ⟨fun s t r h => by dsimp only at h; split at h <;> cases h; exact .refl s, fun _ => hp⟩

theorem sound_lock {n : LockName} {c : Nat} (hp : p.Sound) : (Prog.lock n c p).Sound :=
  ⟨fun s t r h => by dsimp only at h; split at h <;> cases h; exact Updates.setLock _ _, fun _ => hp⟩

theorem sound_unlock {n : LockName} (hp : p.Sound) : (Prog.unlock n p).Sound :=
  sound_set (fun _ => Updates.setLock _ _) hp

theorem sound_read32 {a : State → Nat} {k : Word → Prog} (hk : ∀ b, (k b).Sound) : (Prog.read32 a k).Sound :=
  ⟨fun s t r h => by dsimp only at h; split at h <;> cases h; exact .refl s, fun r => hk r.getWord⟩

theorem sound_write32 {a : State → Nat} {v : Word} (hp : p.Sound) : (Prog.write32 a v p).Sound :=
  ⟨fun s t r h => by dsimp only at h; split at h <;> cases h; exact Updates.write32 _ _ ‹_›, fun _ => hp⟩

theorem sound_write64 {a : State → Nat} {v : DWord} (hp : p.Sound) : (Prog.write64 a v p).Sound :=
  ⟨fun s t r h => by dsimp only at h; split at h <;> cases h; exact Updates.write64 _ _ ‹_›, fun _ => hp⟩

theorem sound_forEach {β : Type} {l : List β} {body : β → Prog → Prog} (hb : ∀ b k, k.Sound → (body b k).Sound)
    (hp : p.Sound) : (Prog.forEach l body p).Sound := by
  induction l with
  | nil => exact hp
  | cons b l ih => exact hb b _ ih

theorem sound_raise {f : FaultCode} (hf : f ≠ .none) (hp : p.Sound) : (Prog.raise f p).Sound :=
  sound_set (fun _ => Updates.recordFault _ hf) hp

theorem sound_free {h : Handle} (hp : p.Sound) : (Prog.free h p).Sound := sound_set (fun _ => Updates.freeBuf _) hp

theorem sound_alloc {c : Nat} {k : Option Handle → Prog} (hk : ∀ b, (k b).Sound) : (Prog.alloc c k).Sound :=
  ⟨fun s t r h => by
    dsimp only at h
    split at h
    · split at h <;> cases h
      exact (Updates.one (.env s _)).step (.newBuffer _ _ _)
    · cases h; exact .one (.env s _)
    · cases h; exact .refl s, fun r => hk r.getHandle⟩

theorem sound_allocRing {n : Nat} {k : Option DWord → Prog} (hk : ∀ b, (k b).Sound) : (Prog.allocRing n k).Sound :=
  ⟨fun s t r h => by
    dsimp only at h
    split at h
    · split at h <;> cases h
      exact (Updates.one (.env s _)).step (.rings _ _)
    · cases h; exact .one (.env s _)
    · cases h; exact .refl s, fun r => hk r.getHandle⟩

theorem sound_irqRegister {g : Nat} {k : Bool → Prog} (hk : ∀ b, (k b).Sound) : (Prog.irqRegister g k).Sound :=
  ⟨fun s t r h => by
    dsimp only at h
    split at h <;> cases h
    · exact (Updates.one (.env s _)).step (.grp _ _ _)
    · exact .one (.env s _)
    · exact .refl s, fun r => hk r.getFlag⟩

theorem sound_enter (hp : p.Sound) : (enter p).Sound :=
  sound_testAndSet (fun s _ => .one (.dev s _ fun _ => .inl rfl)) fun b => by
    cases b
    · exact sound_done _
    · exact hp

theorem sound_leave (c : Code) : (leave c).Sound :=
  sound_set (fun s => .one (.dev s _ fun _ => .inl rfl)) (sound_done c)

theorem sound_trySchedule {g : Nat} {k : Bool → Prog} (hk : ∀ b, (k b).Sound) : (trySchedule g k).Sound :=
  sound_testAndSet (fun s _ => .one (.grp s _ _)) hk

end Prog

end Sys2Proof.Machine
end

