-- ==== Sys2Proof/Laws/Sound.lean ====
section
/-! SUPPORT. Every operation of the controller is a program of atomic updates, every move of every agent is a sequence
of them, and so is every step (`step_updates`). -/

namespace Sys2Proof.Machine

open Prog

/-- Both branches. -/
theorem sound_ite {c : Prop} [Decidable c] {p q : Prog} (hp : p.Sound) (hq : q.Sound) :
    (if c then p else q).Sound := by
  split
  · exact hp
  · exact hq

/-! ### The shared operations -/

theorem sound_popLocal {c : Nat} {k : Option Handle → Prog} (hk : ∀ b, (k b).Sound) : (popLocal c k).Sound :=
  ⟨fun s t r h => by
    dsimp only at h
    split at h <;> cases h
    · exact (Updates.one (.takeLocal s c _ (by simp [*]))).trans (Updates.setOwner _ _)
    · exact .refl s, fun r => hk r.getHandle⟩

theorem sound_popFilled {c : Nat} {k : Option Handle → Prog} (hk : ∀ b, (k b).Sound) : (popFilled c k).Sound :=
  ⟨fun s t r h => by
    dsimp only at h
    split at h <;> cases h
    exact (Updates.one (.takeLocal s c _ (by simp [*]))).trans (Updates.setOwner _ _), fun r => hk r.getHandle⟩

theorem sound_pushLocal {c : Nat} {h : Handle} {k : Bool → Prog} (hk : ∀ b, (k b).Sound) : (pushLocal c h k).Sound :=
  sound_testAndSet (fun s hs => (Updates.one (.pushLocal s c h (by simpa using hs))).trans (Updates.setOwner _ _)) hk

theorem sound_pushEmptied {c : Nat} {h : Handle} {k : Prog} (hk : k.Sound) : (pushEmptied c h k).Sound :=
  ⟨fun s t r e => by
    dsimp only at e
    split at e <;> cases e
    exact (Updates.one (.pushLocal s c h ‹_›)).trans (Updates.setOwner _ _), fun _ => hk⟩

theorem sound_acquire {c : Nat} {k : Option Handle → Prog} (hk : ∀ b, (k b).Sound) : (acquire c k).Sound := by
  refine sound_popLocal fun r => ?_
  cases r with
  | some h => exact hk _
  | none =>
    refine sound_lock (sound_askFlag fun b => ?_)
    cases b
    · exact sound_unlock (sound_alloc hk)
    · exact sound_set (fun _ => Updates.swapLists _) (sound_unlock (sound_popFilled hk))

theorem sound_release {c : Nat} {h : Handle} {k : Prog} (hk : k.Sound) : (release c h k).Sound := by
  refine sound_askFlag fun b => ?_
  cases b
  · exact sound_free hk
  · refine sound_pushLocal fun b => ?_
    cases b
    · refine sound_lock (sound_askFlag fun b => ?_)
      cases b
      · exact sound_unlock (sound_free hk)
      · exact sound_set (fun _ => Updates.swapLists _) (sound_unlock (sound_pushEmptied hk))
    · exact hk

theorem sound_poolPurge {k : Prog} (hk : k.Sound) : (poolPurge k).Sound := by
  refine sound_askNat fun n => sound_forEach (fun c k hk => ?_) ?_
  · exact sound_askHandles fun hs => sound_forEach (fun _ _ h => sound_set (fun _ => Updates.freeLocal _ _) h)
      (sound_set (fun s => .one (.takeLocal s c _ (List.nil_sublist _))) hk)
  · exact sound_askHandles fun hs => sound_forEach (fun _ _ h => sound_set (fun _ => Updates.freeGlobal _) h)
      (sound_set (fun s => .one (.pool s _ fun _ => List.nil_sublist _)) hk)

theorem sound_ringInit {kd : Kind} {q n : Nat} {k : Bool → Prog} (hk : ∀ b, (k b).Sound) :
    (ringInit kd q n k).Sound := by
  refine sound_allocRing fun r => ?_
  cases r with
  | none => exact hk _
  | some b =>
    refine sound_forEach (fun i k h => sound_write32 (sound_write32 (sound_write64 h))) (sound_write32 ?_)
    exact sound_set (fun _ => Updates.setRingQueue _ _ _ _) (sound_set (fun _ => Updates.clearInflight _ _ _)
      (sound_set (fun _ => Updates.freshCursors _ _ _) (sound_set
        (fun s => .one (.coalescer s kd q 0 0 (by omega) (by omega)))
          (sound_set (fun _ => Updates.setAlloc _ _ _) (hk _)))))

theorem sound_ringFree {kd : Kind} {q : Nat} {k : Prog} (hk : k.Sound) : (ringFree kd q k).Sound := by
  refine sound_askFlag fun b => ?_
  cases b
  · exact hk
  · exact sound_set (fun _ => Updates.freeRing _) (sound_set (fun _ => Updates.ringFreed _ _) hk)

theorem sound_armRx {q i : Nat} {a : DWord} {k : Prog} (hk : k.Sound) : (armRx q i a k).Sound :=
  sound_askNat fun _ => sound_write64 (sound_writeBarrier (sound_write32 hk))

theorem sound_slotReady {kd : Kind} {q i : Nat} {k : Bool → Word → Prog} (hk : ∀ b w, (k b w).Sound) :
    (slotReady kd q i k).Sound := sound_read32 fun w => hk _ w

theorem sound_ringNext {kd : Kind} {q i : Nat} {k : Nat → Prog} (hk : ∀ j, (k j).Sound) :
    (ringNext kd q i k).Sound := sound_read32 fun _ => hk _

/-! ### Transmit -/

theorem sound_setPhase {q : Nat} {p : TxPhase} {k : Prog} (hk : k.Sound) :
    (Prog.set (fun s => s.setPhase q p) k).Sound := sound_set (fun _ => Updates.setPhase _ _) hk

theorem sound_submitWalk {q f n nbd : Nat} {l : List Region} {k : Prog} (hk : k.Sound) :
    (submitWalk q f n nbd l k).Sound := sound_forEach (fun _ _ h => sound_write64 (sound_write32 h)) hk

theorem sound_submitCommit {c q : Nat} {h : Handle} {f n nbd len : Nat} {k : Prog} (hk : k.Sound) :
    (submitCommit c q h f n nbd len k).Sound := by
  refine sound_lock (sound_writeBarrier (sound_write32 (sound_writeBarrier (sound_forEach
    (fun _ _ h => sound_set (fun _ => Updates.setTxEntry _ _ _) h) ?_))))
  exact sound_set (fun _ => (Updates.setTxEntry _ _ _).trans (Updates.setOwner _ _))
    (sound_set (fun s => .one (.tx s q _ fun _ => ⟨rfl, rfl⟩)) (sound_set
      (fun s => .one (.tx s q _ fun _ => ⟨rfl, rfl⟩)) (sound_setPhase
        (sound_set (fun _ => Updates.doorbell _) (sound_unlock hk)))))

theorem sound_submitFrame {c q : Nat} {h : Handle} {k : Prog} (hk : k.Sound) : (submitFrame c q h k).Sound :=
  sound_askNat fun _ => sound_askNat fun _ => sound_askRegions fun _ =>
    sound_set (fun _ => Updates.setMapped _ _) (sound_submitWalk (sound_submitCommit hk))

theorem sound_submitGate {c : Nat} {f : State → Bool} {q : Nat} {h : Handle} {k : Code → Prog}
    (hk : ∀ r, (k r).Sound) : (submitGate c f q h k).Sound := sound_gate (fun _ => Updates.takePacket _ _ _) hk

theorem sound_returnPacket {q : Nat} {h : Handle} {k : Prog} (hk : k.Sound) :
    (Prog.set (fun s => s.returnPacket q h) k).Sound := sound_set (fun _ => Updates.returnPacket _ _) hk

theorem sound_submit (c q : Nat) : (progSubmit c q).Sound := by
  refine sound_askDWord fun h => sound_submitGate fun code => ?_
  split
  · trivial
  · refine sound_askNat fun n => sound_lock (sound_askFlag fun full => ?_)
    cases full
    · exact sound_unlock (sound_setPhase (sound_submitFrame (sound_setPhase trivial)))
    · exact sound_set (fun _ => Updates.stopQueue _) (sound_unlock (sound_returnPacket trivial))

theorem sound_segment {c : Nat} {k : List Handle × Bool → Prog} (hk : ∀ b, (k b).Sound) : (segment c k).Sound :=
  ⟨fun s t r e => by
    dsimp only at e
    split at e
    · split at e <;> cases e
      exact (Updates.one (.env s _)).trans (Updates.addSegments _ _)
    · cases e; exact .refl s, fun r => hk r.getSegments⟩

theorem sound_submitSeg (c q : Nat) : (progSubmitSeg c q).Sound := by
  refine sound_askDWord fun h => sound_askDWord fun m => sound_submitGate fun code => ?_
  split
  · trivial
  · refine sound_segment fun built => ?_
    split
    · exact sound_forEach (fun _ _ h => sound_free h) (sound_returnPacket trivial)
    · refine sound_askNat fun n => sound_lock (sound_askFlag fun full => ?_)
      cases full
      · exact sound_unlock (sound_setPhase (sound_forEach (fun _ _ h => sound_submitFrame h)
          (sound_free (sound_setPhase trivial))))
      · exact sound_set (fun _ => Updates.stopQueue _) (sound_unlock (sound_forEach (fun _ _ h => sound_free h)
          (sound_returnPacket trivial)))

/-! ### Cleanup -/

theorem sound_rearm {q i : Nat} {x : Handle} {k : Prog} (hk : k.Sound) : (rearm q i x k).Sound :=
  sound_set (fun _ => Updates.setMapped _ _) (sound_askDWord fun _ => sound_armRx hk)

theorem sound_rxPending {q : Nat} {k : Bool → Prog} (hk : ∀ b, (k b).Sound) : (rxPending q k).Sound :=
  sound_askFlag fun _ => sound_ite (hk _) (sound_read32 fun _ => hk _)

theorem sound_counts {l : List Nat} {k : Prog} (hk : k.Sound) :
    (Prog.forEach l (fun n rest => Prog.set (fun s => s.count n) rest) k).Sound :=
  sound_forEach (fun n _ h => sound_set (fun s => .one (.count s n)) h) hk

theorem sound_rxReplenish {c q i : Nat} {h : Handle} {bad : Bool} {k : Bool → Prog} (hk : ∀ b, (k b).Sound) :
    (rxReplenish c q i h bad k).Sound := by
  refine sound_ite (sound_rearm (hk _)) (sound_acquire fun r => ?_)
  cases r with
  | none => exact sound_set (fun s => .one (.count s _)) (sound_rearm (hk _))
  | some h2 => exact sound_set (fun _ => (Updates.setOwner _ _).trans (Updates.setRxEntry _ _ _)) (sound_rearm (hk _))

theorem sound_rxLoop {c q : Nat} (budget work : Nat) {k : PollEnd → Prog} (hk : ∀ e, (k e).Sound) :
    (rxLoop c q budget work k).Sound := by
  induction budget generalizing work with
  | zero => exact sound_rxPending fun _ => hk _
  | succ n ih =>
    refine sound_askNat fun i => sound_slotReady fun ready w => ?_
    cases ready
    · exact hk _
    · refine sound_readBarrier (sound_askRx fun e => ?_)
      cases e with
      | empty => exact sound_raise (by decide) (hk _)
      | buf h =>
        refine sound_set (fun _ => Updates.setMapped _ _) (sound_askNat fun m => sound_askNat fun hdr => ?_)
        refine sound_counts (sound_rxReplenish fun up => ?_)
        refine sound_set (fun s => .one (.rx s q _ fun _ => ⟨rfl, rfl⟩)) ?_
        cases up
        · exact ih _
        · exact sound_set (fun _ => Updates.deliverUp _ _ _) (ih _)

theorem sound_rxPoll {c q b : Nat} {k : PollEnd → Prog} (hk : ∀ e, (k e).Sound) : (rxPoll c q b k).Sound :=
  sound_require (sound_rxLoop _ _ hk)

theorem sound_txPending {q : Nat} {k : Bool → Prog} (hk : ∀ b, (k b).Sound) : (txPending q k).Sound := by
  refine sound_askFlag fun b => sound_ite (hk _) (sound_askNat fun d => sound_askTx fun e => ?_)
  cases e with
  | head h n => exact sound_read32 fun _ => hk _
  | empty => exact hk _
  | cont f => exact hk _

theorem sound_cleanFrame {c q d : Nat} {h : Handle} {nbd n : Nat} {k : Prog} (hk : k.Sound) :
    (cleanFrame c q d h nbd n k).Sound := by
  refine sound_set (fun _ => Updates.takeFrame _ _ _ _) (sound_release (sound_forEach (fun j k hk => ?_) ?_))
  · exact sound_read32 fun w => sound_write32 (sound_set (fun _ => Updates.setTxEntry _ _ _) hk)
  · exact sound_set (fun s => .one (.tx s q _ fun _ => ⟨rfl, rfl⟩)) (sound_lock (sound_set
      (fun s => .one (.tx s q _ fun _ => ⟨rfl, rfl⟩)) (sound_set (fun s => .one (.tx s q _ fun _ => ⟨rfl, rfl⟩))
        (sound_unlock hk))))

theorem sound_txLoop {c q : Nat} (budget work : Nat) {k : PollEnd → Prog} (hk : ∀ e, (k e).Sound) :
    (txLoop c q budget work k).Sound := by
  induction budget generalizing work with
  | zero => exact sound_txPending fun _ => hk _
  | succ n ih =>
    refine sound_askNat fun d => sound_askFlag fun idle => sound_ite (hk _) (sound_askTx fun e => ?_)
    cases e with
    | empty => exact sound_raise (by decide) (hk _)
    | cont f => exact sound_raise (by decide) (hk _)
    | head h nbd =>
      exact sound_askNat fun n => sound_slotReady fun ready w => sound_ite (hk _)
        (sound_readBarrier (sound_counts (sound_cleanFrame (ih _))))

theorem sound_txPoll {c q b : Nat} {k : PollEnd → Prog} (hk : ∀ e, (k e).Sound) : (txPoll c q b k).Sound :=
  sound_require (sound_txLoop _ _ hk)

theorem sound_pollQueues {c b : Nat} (l : List (Kind × Nat)) (done : Bool) (total : Nat) {k : PollEnd → Prog}
    (hk : ∀ e, (k e).Sound) : (pollQueues c b l done total k).Sound := by
  induction l generalizing done total with
  | nil => exact hk _
  | cons x l ih =>
    obtain ⟨kd, q⟩ := x
    have next : ∀ e : PollEnd, (match e with
        | .ended dn wk => pollQueues c b l (done && dn) (total + wk) k
        | .faulted wk => k (.faulted (total + wk))).Sound := by
      intro e
      cases e with
      | ended dn wk => exact ih _ _
      | faulted wk => exact hk _
    cases kd
    · exact sound_rxPoll next
    · exact sound_txPoll next

theorem sound_groupPending (l : List (Kind × Nat)) {k : Bool → Prog} (hk : ∀ b, (k b).Sound) :
    (groupPending l k).Sound := by
  induction l with
  | nil => exact hk _
  | cons x l ih =>
    obtain ⟨kd, q⟩ := x
    have next : ∀ b : Bool, (if b then k true else groupPending l k).Sound := by
      intro b
      cases b
      · exact ih
      · exact hk _
    cases kd
    · exact sound_rxPending next
    · exact sound_txPending next

theorem sound_grp {g : Nat} {f : Group → Group} {k : Prog} (hk : k.Sound) :
    (Prog.set (fun s => s.modGrp g f) k).Sound := sound_set (fun s => .one (.grp s g f)) hk

theorem sound_groupPoll (c g : Nat) : (progGroupPoll c g).Sound := by
  refine sound_askDWord fun a => sound_check (fun s => .one (.grp s g _)) fun code => ?_
  split
  · trivial
  · refine sound_grp (sound_askQueues fun qs => sound_pollQueues _ _ _ fun e => ?_)
    rcases e with ⟨_ | _, total⟩ | total
    · exact sound_grp trivial
    · refine sound_grp (sound_grp (sound_groupPending _ fun p => ?_))
      cases p
      · exact sound_grp trivial
      · refine sound_trySchedule fun won => ?_
        cases won
        · exact sound_grp trivial
        · exact sound_grp (sound_grp trivial)
    · exact sound_grp (sound_grp trivial)

/-! ### The controller -/

theorem sound_dev {f : Device → Device} {k : Prog} (h : ∀ d, (f d).lastErr = d.lastErr) (hk : k.Sound) :
    (Prog.set (fun s => s.modDev f) k).Sound := sound_set (fun s => .one (.dev s f fun d => .inl (h d))) hk

theorem sound_pool {f : Pool → Pool} {k : Prog} (h : ∀ p, (f p).global.Sublist p.global)
    (hk : k.Sound) : (Prog.set (fun s => s.modPool f) k).Sound := sound_set (fun s => .one (.pool s f h)) hk

theorem sound_setSizes {k : Prog} (hk : k.Sound) : (setSizes k).Sound := by
  have last : (Prog.set (fun s => s.modDev fun d => { d with rxBufSize := s.derivedBufferSize }) k).Sound :=
    sound_set (fun s => .one (.dev s _ fun _ => .inl rfl)) hk
  refine sound_set (fun s => .one (.dev s _ fun _ => .inl rfl)) (sound_askFlag fun b => ?_)
  cases b
  · exact last
  · exact sound_poolPurge last

theorem sound_freeRxBuffers {q : Nat} {k : Prog} (hk : k.Sound) : (freeRxBuffers q k).Sound :=
  sound_askRxs fun _ => sound_forEach (fun _ _ h => sound_set (fun _ => Updates.setMapped _ _)
    (sound_set (fun _ => Updates.freeRxEntry _ _ _) h)) hk

theorem sound_imasks {l : List Nat} {v : BitVec 2} {k : Prog} (hk : k.Sound) :
    (Prog.forEach l (fun g rest => Prog.set (fun s => s.setImask g v) rest) k).Sound :=
  sound_forEach (fun _ _ h => sound_set (fun _ => Updates.setImask _ _) h) hk

theorem sound_unwind {k : Prog} (hk : k.Sound) : (unwind k).Sound :=
  sound_askNat fun _ => sound_forEach (fun _ _ h => sound_grp h) (sound_askNat fun _ =>
    sound_forEach (fun _ _ h => sound_freeRxBuffers h) (sound_askNat fun _ =>
      sound_forEach (fun _ _ h => sound_ringFree h) (sound_forEach (fun _ _ h => sound_ringFree h)
        (sound_imasks hk))))

theorem sound_startRings {kd : Kind} {fail : Prog} (l : List Nat) {k : Prog} (hf : fail.Sound) (hk : k.Sound) :
    (startRings kd fail l k).Sound := by
  induction l with
  | nil => exact hk
  | cons q l ih =>
    refine sound_askNat fun n => sound_ringInit fun ok => ?_
    cases ok
    · exact hf
    · exact ih

theorem sound_startBuffers {c : Nat} {fail : Prog} {q : Nat} {k : Prog} (hf : fail.Sound) (hk : k.Sound) :
    (startBuffers c fail q k).Sound := by
  refine sound_askNat fun n => sound_forEach (fun i k hk => sound_acquire fun r => ?_) hk
  cases r with
  | none => exact hf
  | some h => exact sound_set (fun _ => Updates.setRxEntry _ _ _) (sound_rearm hk)

theorem sound_startGroups {fail : Prog} (l : List Nat) {k : Prog} (hf : fail.Sound) (hk : k.Sound) :
    (startGroups fail l k).Sound := by
  induction l with
  | nil => exact hk
  | cons g l ih =>
    refine sound_grp (sound_irqRegister fun ok => ?_)
    cases ok
    · exact hf
    · exact ih

theorem sound_startBody {c : Nat} {k : Code → Prog} (hk : ∀ x, (k x).Sound) : (startBody c k).Sound := by
  refine sound_askFlag fun ok => sound_ite (hk _) (sound_askFlag fun zc => sound_ite (hk _) ?_)
  refine sound_setSizes (sound_askNat fun nt => sound_askNat fun nr => sound_askNat fun ng => ?_)
  refine sound_startRings _ (sound_unwind (hk _)) (sound_startRings _ (sound_unwind (hk _)) ?_)
  refine sound_forEach (fun _ _ h => sound_startBuffers (sound_unwind (hk _)) h) ?_
  refine sound_forEach (fun q _ h => sound_set (fun s => .one (.etx s q fun _ => _)) h) ?_
  refine sound_forEach (fun q _ h => sound_set (fun s => .one (.erx s q fun _ => _)) h) ?_
  refine sound_startGroups _ (sound_unwind (hk _)) (sound_imasks ?_)
  exact sound_dev (fun _ => rfl) (sound_writeBarrier (sound_set (fun _ => Updates.writeDmactrl _)
    (sound_dev (fun _ => rfl) (sound_dev (fun _ => rfl) (sound_dev (fun _ => rfl) (hk _))))))

theorem sound_haltBegin {k : Prog} (hk : k.Sound) : (haltBegin k).Sound :=
  sound_dev (fun _ => rfl) (sound_askNat fun _ => sound_askNat fun _ => sound_imasks (sound_await (sound_await
    (sound_forEach (fun _ _ h => sound_grp h) (sound_set (fun _ => Updates.writeDmactrl _) hk)))))

theorem sound_haltJudge {b : Bool} {k : Prog} (hk : k.Sound) : (haltJudge b k).Sound := by
  refine sound_dev (fun _ => rfl) ?_
  cases b
  · exact sound_raise (by decide) hk
  · exact hk

theorem sound_haltWait {k : Prog} (hk : k.Sound) : (haltWait k).Sound := by
  exact sound_dev (fun _ => rfl) (sound_await (sound_askFlag fun b => sound_ite
    (sound_await (sound_askFlag fun _ => sound_haltJudge hk)) (sound_askFlag fun _ => sound_haltJudge hk)))

theorem sound_freeTxFrames {q : Nat} {k : Prog} (hk : k.Sound) : (freeTxFrames q k).Sound :=
  sound_askTxs fun _ => sound_forEach (fun _ _ h => sound_set (fun _ => Updates.setMapped _ _)
      (sound_set (fun _ => Updates.freeTxEntry _ _ _) h))
    (sound_set (fun _ => Updates.clearInflight _ _ _) hk)

theorem sound_finishTxQueue {q : Nat} {k : Prog} (hk : k.Sound) : (finishTxQueue q k).Sound := by
  refine sound_askFlag fun a => sound_ite (sound_freeTxFrames (sound_set (fun s => ?_) (sound_ringFree hk))) hk
  exact .one (.tx s q _ fun _ => ⟨rfl, rfl⟩)

theorem sound_finishRxQueue {q : Nat} {k : Prog} (hk : k.Sound) : (finishRxQueue q k).Sound := by
  refine sound_askFlag fun a => ?_
  cases a
  · exact hk
  · exact sound_freeRxBuffers (sound_ringFree hk)

theorem sound_haltFinish {k : Prog} (hk : k.Sound) : (haltFinish k).Sound :=
  sound_dev (fun _ => rfl) (sound_set (fun _ => Updates.writeDmactrl _) (sound_dev (fun _ => rfl)
    (sound_askNat fun _ => sound_forEach (fun _ _ h => sound_grp (sound_grp h)) (sound_askNat fun _ =>
      sound_forEach (fun _ _ h => sound_finishTxQueue h) (sound_askNat fun _ =>
        sound_forEach (fun _ _ h => sound_finishRxQueue h) (sound_dev (fun _ => rfl) hk))))))

theorem sound_haltAll {k : Prog} (hk : k.Sound) : (haltAll k).Sound :=
  sound_haltBegin (sound_haltWait (sound_haltFinish hk))

theorem sound_restart (c : Nat) : (restart c).Sound :=
  sound_startBody fun code => by
    split
    · exact sound_leave _
    · exact sound_raise (by decide) (sound_leave _)

/-! ### Every operation -/

theorem sound_progPoolInit : progPoolInit.Sound :=
  sound_enter (sound_askFlag fun _ => sound_ite (sound_leave _) (sound_askNat fun _ =>
    sound_forEach (fun c _ h => sound_set (fun s => .one (.takeLocal s c _ (List.nil_sublist _))) h)
      (sound_pool (fun _ => List.nil_sublist _) (sound_pool (fun _ => .refl _) (sound_leave _)))))

theorem sound_progPoolTeardown : progPoolTeardown.Sound :=
  sound_enter (sound_askFlag fun _ => sound_ite (sound_leave _)
    (sound_poolPurge (sound_pool (fun _ => .refl _) (sound_leave _))))

theorem sound_progAcquire (c : Nat) : (progAcquire c).Sound := by
  refine sound_askFlag fun b => sound_ite (sound_done _) (sound_acquire fun r => ?_)
  cases r with
  | none => exact sound_done _
  | some h => exact sound_set (fun _ => Updates.setOwner _ _) (sound_ret _)

theorem sound_progRelease (c : Nat) : (progRelease c).Sound :=
  sound_askDWord fun _ => sound_gate (fun _ => Updates.setOwner _ _) fun _ =>
    sound_ite (sound_release (sound_done _)) (sound_done _)

theorem sound_progIrq (g : Nat) : (progIrq g).Sound :=
  sound_check (fun s => .refl s) fun _ => sound_ite (sound_done _)
    (sound_set (fun _ => Updates.setImask _ _) (sound_trySchedule fun _ => sound_ret _))

theorem sound_progMaskAll (g : Nat) : (progMaskAll g).Sound :=
  sound_askFlag fun _ => sound_ite (sound_done _) (sound_set (fun _ => Updates.setImask _ _) (sound_done _))

theorem sound_progUnmaskDefault (g : Nat) : (progUnmaskDefault g).Sound :=
  sound_askFlag fun _ => sound_ite (sound_done _) (sound_set (fun _ => Updates.setImask _ _) (sound_done _))

theorem sound_progSetCoalesce (c : Nat) (k : Kind) (q : Nat) : (progSetCoalesce c k q).Sound := by
  refine sound_askDWord fun a => sound_askDWord fun b => sound_askFlag fun ok => ?_
  split
  · exact sound_lock (sound_set (fun _ => (Updates.setIc _ _ _).trans (Updates.coalesceEval _ _))
      (sound_unlock (sound_done _)))
  · exact sound_done _

theorem sound_progStart (c : Nat) : (progStart c).Sound :=
  sound_enter (sound_askFlag fun _ => sound_ite (sound_leave _) (sound_startBody fun _ => sound_leave _))

theorem sound_progHalt : progHalt.Sound :=
  sound_enter (sound_askFlag fun _ => sound_ite (sound_leave _) (sound_haltAll (sound_leave _)))

theorem sound_progChangeMtu (c : Nat) : (progChangeMtu c).Sound := by
  refine sound_askDWord fun a => ?_
  split
  · exact sound_done _
  · refine sound_askFlag fun b => sound_ite (sound_done _) (sound_enter (sound_askFlag fun up => ?_))
    cases up
    · exact sound_dev (fun _ => rfl) (sound_setSizes (sound_leave _))
    · exact sound_haltAll (sound_dev (fun _ => rfl) (sound_setSizes (sound_restart _)))

theorem sound_progLinkChange (c : Nat) (up full : Bool) : (progLinkChange c up full).Sound := by
  refine sound_askDWord fun a => ?_
  split
  · exact sound_done _
  · exact sound_askNat fun n => sound_forEach (fun _ _ h => sound_lock h)
      (sound_set (fun _ => Updates.changeLink _ _ _) (sound_forEach (fun _ _ h => sound_unlock h) (sound_done _)))

theorem sound_progResetTask (c : Nat) : (progResetTask c).Sound :=
  sound_testAndSet (fun s _ => .one (.dev s _ fun _ => .inl rfl)) fun _ => sound_ite (sound_done _)
    (sound_dev (fun _ => rfl) (sound_askFlag fun _ => sound_ite (sound_leave _) (sound_haltAll (sound_restart _))))

theorem sound_progTxTimeout (q : Nat) : (progTxTimeout q).Sound :=
  sound_check (fun _ => Updates.recordFault _ (by decide)) fun _ => sound_done _

theorem sound_progReadStats : progReadStats.Sound := sound_set (fun s => .one (.snapshot s)) (sound_done _)

theorem sound_progRingInit (c : Nat) (k : Kind) (q : Nat) : (progRingInit c k q).Sound :=
  sound_askDWord fun _ => sound_askFlag fun _ => sound_ite (sound_done _)
    (sound_require (sound_ringInit fun _ => sound_done _))

theorem sound_progArmRx (c q : Nat) : (progArmRx c q).Sound :=
  sound_askDWord fun _ => sound_askDWord fun _ => sound_askFlag fun _ => sound_ite (sound_done _)
    (sound_slotReady fun _ _ => sound_require (sound_armRx (sound_done _)))

theorem sound_progSlotReady (c : Nat) (k : Kind) (q : Nat) : (progSlotReady c k q).Sound :=
  sound_askDWord fun _ => sound_askFlag fun _ => sound_ite (sound_done _) (sound_slotReady fun _ _ => sound_ret _)

theorem sound_progRingNext (c : Nat) (k : Kind) (q : Nat) : (progRingNext c k q).Sound :=
  sound_askDWord fun _ => sound_askFlag fun _ => sound_ite (sound_done _) (sound_ringNext fun _ => sound_ret _)

theorem sound_progRxPoll (c q : Nat) : (progRxPoll c q).Sound := by
  refine sound_askDWord fun a => sound_askFlag fun ok => ?_
  split
  · exact sound_require (sound_rxPoll fun _ => sound_ret _)
  · exact sound_done _

theorem sound_progTxPoll (c q : Nat) : (progTxPoll c q).Sound := by
  refine sound_askDWord fun a => sound_askFlag fun ok => ?_
  split
  · exact sound_require (sound_txPoll fun _ => sound_ret _)
  · exact sound_done _

/-- Every event of every operation is a sequence of atomic updates. -/
theorem sound_progOf (i : Instr) : (progOf i).Sound := by
  cases i with
  | nop c => exact sound_done _
  | poolInit c => exact sound_progPoolInit
  | poolTeardown c => exact sound_progPoolTeardown
  | acquire c => exact sound_progAcquire _
  | release c => exact sound_progRelease _
  | submit c q => exact sound_submit _ _
  | submitSeg c q => exact sound_submitSeg _ _
  | irq c g => exact sound_progIrq _
  | groupPoll c g => exact sound_groupPoll _ _
  | maskAll c g => exact sound_progMaskAll _
  | unmaskDefault c g => exact sound_progUnmaskDefault _
  | setCoalesce c k q => exact sound_progSetCoalesce _ _ _
  | start c => exact sound_progStart _
  | halt c => exact sound_progHalt
  | changeMtu c => exact sound_progChangeMtu _
  | linkChange c up full => exact sound_progLinkChange _ _ _
  | resetTask c => exact sound_progResetTask _
  | txTimeout c q => exact sound_progTxTimeout _
  | readStats c => exact sound_progReadStats
  | ringInit c k q => exact sound_progRingInit _ _ _
  | armRx c q => exact sound_progArmRx _ _
  | slotReady c k q => exact sound_progSlotReady _ _ _
  | ringNext c k q => exact sound_progRingNext _ _ _
  | rxPoll c q => exact sound_progRxPoll _ _
  | txPoll c q => exact sound_progTxPoll _ _

/-- What remains of a sound program after some of its events is sound. -/
theorem sound_replay {p : Prog} (hp : p.Sound) (l : List Resp) : (p.replay l).Sound := by
  induction l generalizing p with
  | nil =>
    cases p <;> exact hp
  | cons r l ih =>
    cases p with
    | ret _ => exact sound_ret _
    | ev f k => exact ih (hp.2 r)

/-! ### Every move -/

namespace Updates

variable {s t : State}

theorem dev_same (f : Device → Device) (h : ∀ d, (f d).lastErr = d.lastErr) : Updates s (s.modDev f) :=
  .one (.dev s f fun d => .inl (h d))

theorem endAtOnce (c : Nat) (x : Code) : Updates s (s.endAtOnce c x) := .one (.bank s c _ fun _ => rfl)

theorem setBusy (c : Nat) : Updates s (s.modBank c fun b => { b with busy := true }) :=
  .one (.bank s c _ fun _ => rfl)

theorem storeCommand (c : Nat) (w : Word) : Updates s (s.modBank c fun b => { b with cmd := w }) :=
  .one (.bank s c _ fun _ => rfl)

theorem writeBank_localList (b : Bank) (r : Nat) (v : Word) : (writeBank b r v).localList = b.localList := by
  unfold writeBank
  split <;> rfl

theorem writeDevice_lastErr (d : Device) (r : Nat) (v : Word) : (writeDevice d r v).lastErr = d.lastErr := by
  unfold writeDevice
  split <;> rfl

theorem writeRegister (o : BitVec 12) (n : Nat) (v : Word) : Updates s (s.writeRegister o n v) := by
  unfold State.writeRegister
  dsimp only
  split
  · exact .refl s
  split
  · exact .one (.bank s _ _ fun b => writeBank_localList b _ _)
  split
  · exact doorbell _
  split
  · exact .refl s
  split
  · exact dev_same _ fun d => writeDevice_lastErr d _ _
  split
  · exact .one (.grp s _ _)
  split
  · split
    · exact .one (.rx s _ _ fun _ => ⟨rfl, rfl⟩)
    · exact .refl s
  split
  · split
    · exact .one (.tx s _ _ fun _ => ⟨rfl, rfl⟩)
    · exact .refl s
  · exact .refl s

theorem issueEnded {c : Nat} {w : Word} (h : issue c w s = .ended t) : Updates s t := by
  simp only [issue] at h
  split at h
  · cases h
  split at h
  · cases h
    exact (storeCommand c w).trans (endAtOnce _ _)
  split at h
  · cases h
    exact (storeCommand c w).trans (endAtOnce _ _)
  split at h <;> cases h
  exact (storeCommand c w).trans (endAtOnce _ _)

theorem issueRun {c : Nat} {w : Word} {i : Instr} (h : issue c w s = .run i t) : Updates s t := by
  simp only [issue] at h
  split at h
  · cases h
  split at h
  · cases h
  split at h
  · cases h
  split at h <;> cases h
  exact (storeCommand c w).trans (setBusy c)

theorem launch (c : Nat) (w : Word) : Updates s (launch c w s) := by
  unfold Machine.launch
  split
  · exact .refl s
  · exact issueEnded ‹_›
  · exact (issueRun ‹_›).trans (setOp _ _)

theorem advance {c : Nat} (h : advance c s = .next t) : Updates s t := by
  unfold Machine.advance at h
  split at h
  · cases h; exact .refl s
  rename_i o ho
  have hs := sound_replay (sound_progOf o.instr) o.log
  split at h
  · cases h; exact finish _ _
  · rename_i e
    rw [e] at hs
    split at h <;> cases h
    · exact (hs.1 _ _ _ ‹_›).trans (setOp _ _)
    · exact .refl s

theorem erxNext (q : Nat) (w : Word) : Updates s (s.modErx q fun e => { e with cur := engineNext w e.cur }) :=
  .one (.erx s q _)

theorem etxNext (q : Nat) (w : Word) : Updates s (s.modEtx q fun e => { e with cur := engineNext w e.cur }) :=
  .one (.etx s q _)

theorem rxFill {q : Nat} {errs : Half} {bytes : List Byte} (h : dmaRxFill q errs bytes s = .next t) :
    Updates s t := by
  simp only [dmaRxFill] at h
  split at h
  · cases h; exact .refl s
  split at h
  · cases h
  split at h
  · cases h
  split at h
  · cases h; exact .refl s
  split at h <;> cases h
  rename_i hd hw hb
  unfold State.rxStore
  rw [Nat.not_lt] at hd hb
  have stored := one (.memory s _ _ hb)
  have marked := stored.trans (write32 ((s.erx q).base.toNat + 16 * (s.erx q).cur) (rxWriteback (readWord s.mem
    ((s.erx q).base.toNat + 16 * (s.erx q).cur)) (if s.dev.rxBufSize < bytes.length then errs ||| truncFlag else errs)
    (bytes.take s.dev.rxBufSize).length) (by omega))
  have moved := marked.trans (erxNext q (readWord s.mem ((s.erx q).base.toNat + 16 * (s.erx q).cur)))
  dsimp only
  split
  · exact moved.trans (coalescePulse _ _)
  · exact moved

theorem txConsume {q : Nat} {errs : Half} (h : dmaTxConsume q errs s = .next t) : Updates s t := by
  simp only [dmaTxConsume] at h
  split at h
  · cases h; exact .refl s
  split at h
  · cases h
  split at h
  · cases h
  rename_i hd
  split at h
  · cases h; exact .one (.etx s q _)
  · cases h
    have marked := write32 (s := s) ((s.etx q).base.toNat + 16 * (s.etx q).cur) (txWriteback (readWord s.mem
      ((s.etx q).base.toNat + 16 * (s.etx q).cur)) errs) (by omega)
    have moved := marked.trans (etxNext q (readWord s.mem ((s.etx q).base.toNat + 16 * (s.etx q).cur)))
    split
    · exact moved.trans (coalescePulse _ _)
    · exact moved

theorem tickQueue (x : Kind × Nat) : Updates s (s.tickQueue x) := by
  unfold State.tickQueue
  split
  · exact .refl s
  · exact (one (.coalescer s x.1 x.2 _ _ (.inr rfl) (.inl (by omega)))).trans (coalesceEval _ _)

theorem stackWrite {h : Handle} {o : Nat} {bytes : List Byte} : Updates s (stackWrite h o bytes s) := by
  unfold Machine.stackWrite
  split
  · split
    · exact .one (.memory s _ bytes (by omega))
    · exact .refl s
  · exact .refl s

/-- Every move of every agent that answers a next state is a sequence of atomic updates. -/
theorem move {m : Move} (h : performMove m s = .next t) : Updates s t := by
  cases m with
  | hostWrite o n v =>
    simp only [performMove] at h
    split at h <;> cases h
    · exact launch _ _
    · exact writeRegister _ _ _
  | hostRead o n => cases h; exact .one (.env s _)
  | launch c w => cases h; exact launch _ _
  | advance c => exact advance h
  | rxFill q e b => exact rxFill h
  | txConsume q e => exact txConsume h
  | pollTick q =>
    cases h
    unfold dmaPollTick
    split
    · exact .one (.etx s q _)
    · exact .refl s
  | stopAck g =>
    cases h
    unfold dmaStopAck
    split
    · exact dev_same _ fun _ => rfl
    · exact .refl s
  | idleUpdate v =>
    cases h
    unfold dmaIdleUpdate
    split
    · exact dev_same _ fun _ => rfl
    · exact .refl s
  | coalesceTick =>
    rw [← (Host.Outcome.next.inj h : coalesceTick s = t)]
    exact foldl _ _ fun _ _ => tickQueue _
  | haltTimeout =>
    rw [← (Host.Outcome.next.inj h : haltTimeout s = t)]
    unfold haltTimeout
    split
    · exact dev_same _ fun _ => rfl
    · exact .refl s
  | describe x i =>
    cases h
    unfold describe
    split
    · exact .one (.newBuffer s _ _)
    · exact .refl s
  | stackFree x =>
    cases h
    unfold stackFree
    split
    · exact .one (.buffer s _ _)
    · exact .refl s
  | stackWrite x o b => cases h; exact stackWrite

/-! ### Running operations -/

theorem settle {f : State → Event} (hf : ∀ s t r, f s = .ok t r → Updates s t) (l : List Move) :
    match settle f l s with
    | .ok t _ => Updates s t
    | .waits t => Updates s t
    | .fault _ => True
    | .refuse _ => True := by
  induction l generalizing s with
  | nil => exact .refl s
  | cons m ms ih =>
    simp only [Machine.settle]
    cases hm : performMove m (s.setAgenda ms) with
    | fault x => trivial
    | refused x => trivial
    | next t =>
      have moved : Updates s t := (one (.agenda s ms)).trans (move hm)
      dsimp only
      cases he : f t with
      | ok u r => exact moved.trans (hf _ _ _ he)
      | wait =>
        have rest := ih (s := t)
        dsimp only
        cases hs : Machine.settle f ms t <;> rw [hs] at rest
        · exact moved.trans rest
        · exact moved.trans rest
        · trivial
        · trivial
      | fault x => trivial
      | refuse x => trivial

theorem occur {f : State → Event} (hf : ∀ s t r, f s = .ok t r → Updates s t) :
    match occur f s with
    | .ok t _ => Updates s t
    | .waits t => Updates s t
    | .fault _ => True
    | .refuse _ => True := by
  unfold Machine.occur
  cases h : f s with
  | ok t r => exact hf _ _ _ h
  | wait => exact settle hf _
  | fault x => trivial
  | refuse x => trivial

theorem run {p : Prog} (hp : p.Sound) (log : List Resp) :
    match p.run s log with
    | .done t _ => Updates s t
    | .waits t _ => Updates s t
    | .fault _ => True
    | .refuse _ => True := by
  induction p generalizing s log with
  | ret r => exact .refl s
  | ev f k ih =>
    have first := occur (s := s) hp.1
    simp only [Prog.run]
    cases h : Machine.occur f s with
    | ok t r =>
      rw [h] at first
      have rest := ih r (s := t) (hp.2 r) (log ++ [r])
      dsimp only
      cases hr : (k r).run t (log ++ [r]) <;> rw [hr] at rest
      · exact first.trans rest
      · exact first.trans rest
      · trivial
      · trivial
    | waits t => rw [h] at first; exact first
    | fault x => trivial
    | refuse x => trivial

/-- Every operation that answers a next state is a sequence of atomic updates. -/
theorem exec {i : Instr} (h : exec i s = .next t) : Updates s t := by
  rw [show Machine.exec i s = execute i (progOf i) s by cases i <;> rfl] at h
  have ran := run (s := s) (sound_progOf i) []
  unfold execute at h
  cases hr : (progOf i).run s [] <;> rw [hr] at ran h <;> cases h
  · exact ran.trans (finish _ _)
  · exact ran.trans (setOp _ _)

end Updates

/-- What a step can do: a sequence of atomic updates. -/
theorem step_updates {s t : State} (h : step s = .next t) : Updates s t := by
  unfold step at h
  split at h
  · cases h; exact .refl s
  rename_i m ms _
  have first := Updates.one (.agenda s ms)
  split at h
  · split at h
    · cases h; exact first
    · cases h; exact first.trans (Updates.issueEnded ‹_›)
    · exact (first.trans (Updates.issueRun ‹_›)).trans (Updates.exec h)
  · exact first.trans (Updates.move h)

end Sys2Proof.Machine
end

