-- ==== Sys2Proof/Tests/Slice0.lean ====
section
/-! SUPPORT. Tests: expected values are those of spec 95 (the vector is named) or computed by hand from the rules;
and, for every statement with hypotheses, a concrete state and operands that meet them. -/

namespace Sys2Proof.Tests

open Sys2Proof Sys2Proof.Machine

/-! ### Well-formed operations and decoding -/

/-- 30 R127, R130: there is no bank 16. -/
theorem test_ctx_16_is_ill_formed : (Instr.nop 16).wellFormed = false := by decide

theorem test_ctx_15_is_well_formed : (Instr.groupPoll 15 0).wellFormed = true := by decide

/-- V-ENC-1, 2, 3, 6, 7, 9, 10, 15, 16, 18, 19, and the listings of programs P1 to P6. -/
theorem test_decode_vectors :
    decodeWord 0x00000000 = .ok (.nop 0) ∧ decodeWord 0x00010000 = .ok (.nop 1) ∧
    decodeWord 0x20000100 = .ok (.submit 0 1) ∧ decodeWord 0x42000001 = .ok (.setCoalesce 0 .tx 0) ∧
    decodeWord 0x42000300 = .ok (.setCoalesce 0 .rx 3) ∧ decodeWord 0x53000003 = .ok (.linkChange 0 true true) ∧
    decodeWord 0x53000000 = .ok (.linkChange 0 false false) ∧ decodeWord 0xE4000000 = .ok (.rxPoll 0 0) ∧
    decodeWord 0xE0000001 = .ok (.ringInit 0 .tx 0) ∧ decodeWord 0x31000700 = .ok (.groupPoll 0 7) ∧
    decodeWord 0x310F0000 = .ok (.groupPoll 15 0) ∧ decodeWord 0x12000000 = .ok (.acquire 0) :=
  ⟨rfl, rfl, rfl, rfl, rfl, rfl, rfl, rfl, rfl, rfl, rfl, rfl⟩

/-- 30 R140: one word of every row, `match` with every operand field at a value of its own. -/
theorem test_decode_rows :
    ([0x10020000, 0x11020000, 0x13020000, 0x21020500, 0x30020500, 0x40020500, 0x41020500, 0x50020000, 0x51020000,
      0x52020000, 0x53020002, 0x54020000, 0x55020500, 0x56020000, 0xE1020500, 0xE2020501, 0xE3020500, 0xE5020500].map
        fun w => (decodeWord w).toOption) =
      [Instr.poolInit 2, .poolTeardown 2, .release 2, .submitSeg 2 5, .irq 2 5, .maskAll 2 5, .unmaskDefault 2 5,
        .start 2, .halt 2, .changeMtu 2, .linkChange 2 false true, .resetTask 2, .txTimeout 2 5, .readStats 2,
        .armRx 2 5, .slotReady 2 .tx 5, .ringNext 2 .rx 5, .txPoll 2 5].map some := by decide

/-- V-ENC-5, 8, 11 to 14: no row matches. -/
theorem test_decode_reserved :
    decodeWord 0x20000001 = .error (.nonzeroSub 0x20 1) ∧ decodeWord 0x42000002 = .error (.nonzeroSub 0x42 2) ∧
    decodeWord 0x53000004 = .error (.nonzeroSub 0x53 4) ∧ decodeWord 0x53000100 = .error (.nonzeroIdx 0x53 1) ∧
    decodeWord 0x50000100 = .error (.nonzeroIdx 0x50 1) ∧ decodeWord 0x01000000 = .error (.unlistedOp 0x01) ∧
    decode [0, 0, 0] = .error .truncated :=
  ⟨rfl, rfl, rfl, rfl, rfl, rfl, rfl⟩

/-- The bytes of a command word are big-endian (30 R130). -/
theorem test_encode_bytes : encode (.setCoalesce 1 .tx 3) = [0x42, 0x01, 0x03, 0x01] := by decide

theorem test_decodeTableWord : decodeTableWord 32 0x53000003 = some (.linkChange 0 true true) := by decide

/-! ### States -/

/-- A check of the next state. -/
def after (o : Host.Outcome State Fault Refusal) (p : State → Bool) : Bool :=
  match o with
  | .next t => p t
  | .fault _ => false
  | .refused _ => false

/-- After an operation of context 0: its code and the check. -/
def ends (o : Host.Outcome State Fault Refusal) (c : Code) (p : State → Bool) : Bool :=
  after o fun t => decide ((t.bank 0).status = c) && !(t.bank 0).busy && p t

/-- Configured, with a pool, not started: one RX queue of 2, one TX queue of 4, one group. -/
def configured : State :=
  (((State.reset.modRx 0 fun r => { r with size := 2 }).modTx 0 fun t => { t with size := 4 }).modGrp 0 fun g =>
    { g with rxq := 1, txq := 1 }).modPool fun p => { p with init := true }

/-- The environment that answers a start of `configured`. -/
def answers : Env :=
  { Env.reset with ringAnswers := [some 0x1000, some 0x2000], bufAnswers := [some (1, 0x101000), some (2, 0x102000)],
                   irqAnswers := [true] }

/-- A buffer as `Alloc` makes it, of 1600 bytes. -/
def buffer (phys : DWord) (o : Owner) (m : Mapping) : Buffer :=
  { live := true, owner := o, mapped := m,
    info := { capacity := 1600, phys := phys, linear := true, refs := 1, bufs := [⟨phys, 60⟩], nfrags := 1,
              needsTs := false, needsHdr := false } }

/-- The device after that start: `UP`, the RX ring at 0x2000 armed, the TX ring at 0x1000 empty; handle 9 is a packet
of the stack. -/
def up : State :=
  ((((((configured.modDev fun d => { d with devState := .up, dmactrl := 2, macctrl := 3 }).modRx 0 fun r =>
    { r with alloc := true, base := 0x2000, n := 2, inflight := [.buf 1, .buf 2] }).modTx 0 fun t =>
    { t with alloc := true, base := 0x1000, n := 4, free := 4, inflight := [.empty, .empty, .empty, .empty] }).modGrp
      0 fun g => { g with irqRegistered := true, imask := 3 }).setMem
    (writeWord (writeWord (writeDWord (writeWord (writeDWord [] 0x2018 0x102000) 0x2010 0xB0000000) 0x2008 0x101000)
      0x2000 0x90000000) 0x1030 0x20000000)).setBufs
    [(1, buffer 0x101000 (.slot .rx 0 0) .fromDevice), (2, buffer 0x102000 (.slot .rx 0 1) .fromDevice),
     (9, buffer 0x109000 .stack .none)]).modErx 0 fun _ => { base := 0x2000, n := 2, cur := 0 }

/-- A state with operands in bank 0. -/
def withArgs (s : State) (a b : DWord) : State := s.modBank 0 fun x => { x with arg0 := a, arg1 := b }

/-- The gate scheduled, as `IRQ` leaves it. -/
def scheduled : State := up.modGrp 0 fun g => { g with pollScheduled := true, imask := 0 }

/-- RX slot 0 completed with the given `lstatus`, handle 5 in the local list of context 0. -/
def received (w : Word) : State :=
  ((scheduled.setMem (writeWord up.mem 0x2000 w)).setBufs
    (insertBuf up.bufs 5 (buffer 0x105000 (.localList 0) .none))).modBank 0 fun b => { b with localList := [5] }

/-- Packet 9 committed in TX slot 0, the descriptor as given. -/
def sent (w : Word) : State :=
  (((scheduled.modTx 0 fun t => { t with fill := 1, free := 3, inflight := [.head 9 1, .empty, .empty, .empty] }).setMem
    (writeWord (writeDWord up.mem 0x1008 0x109000) 0x1000 w)).modBuf 9 fun b =>
      { b with owner := .slot .tx 0 0, mapped := .toDevice }).modEtx 0 fun _ =>
        { base := 0x1000, n := 4, cur := 0, idle := false }

/-- The answer of `segment`: two segments of two descriptors each (V-TX-10). -/
def twoSegments (complete : Bool) : SegmentAnswer :=
  let info (phys : DWord) : BufInfo :=
    { (buffer phys .stack .none).info with bufs := [⟨phys, 40⟩, ⟨phys + 0x100, 700⟩], nfrags := 2 }
  { segs := [(20, info 0x10A000), (21, info 0x10B000)], complete := complete }

/-- `up` with an environment that answers a restart, and a stop that is acknowledged (V-RST-1). -/
def restarting : State :=
  ({ up with env := { answers with ringAnswers := [some 0x3000, some 0x4000],
                                   bufAnswers := [some (41, 0x141000), some (42, 0x142000)] } } : State).setAgenda
    [.stopAck true, .coalesceTick]

/-- Packet 9 as a packet of five regions (V-TX-4). -/
def fiveRegions : State :=
  up.modBuf 9 fun b => { b with info := { b.info with bufs := List.replicate 5 ⟨0x109000, 60⟩, nfrags := 5 } }

/-- Handle 6 as a buffer of the stack that fits the pool, its number the operand. -/
def releasing (l g : List Handle) : State :=
  withArgs (((up.setBufs (insertBuf up.bufs 6 (buffer 0x106000 .stack .none))).modBank 0 fun b =>
    { b with localList := l }).modPool fun p => { p with global := g }) 6 0

/-- A poll to come of a received frame, with an allocator that answers. -/
def polling : State :=
  (withArgs (received 0x10000040) 1 0).modEnv fun e => { e with bufAnswers := [some (7, 0x107000)] }

/-! ### Operations, one step each -/

/-- V-ENC-1: `NOP`. -/
theorem test_nop : ends (exec (.nop 0) State.reset) .ok (fun _ => true) = true := by decide

/-- V-POOL-5: `POOL_INIT` after reset, and again. -/
theorem test_poolInit :
    ends (exec (.poolInit 0) State.reset) .ok (fun t => t.pool.init) = true ∧
    ends (exec (.poolInit 0) configured) .errState (fun _ => true) = true := by decide

/-- V-POOL-6, V-POOL-7: `POOL_TEARDOWN`. -/
theorem test_poolTeardown :
    ends (exec (.poolTeardown 0) up) .errState (fun _ => true) = true ∧
    ends (exec (.poolTeardown 0) ((releasing [6] []).modDev fun d => { d with devState := .down })) .ok
      (fun t => !t.pool.init && !t.live 6 && decide ((t.bank 0).localList = [])) = true := by decide

/-- V-POOL-1: one swap, then the head. -/
theorem test_acquire_swaps :
    ends (exec (.acquire 0) (releasing [] [4, 2])) .ok (fun t =>
      decide ((t.bank 0).rval0 = 4 ∧ (t.bank 0).localList = [2] ∧ t.pool.global = [])) = true := by decide

/-- V-POOL-2: the local list first. -/
theorem test_acquire_local :
    ends (exec (.acquire 0) (releasing [3] [4, 2])) .ok (fun t =>
      decide ((t.bank 0).rval0 = 3 ∧ (t.bank 0).localList = [] ∧ t.pool.global = [4, 2])) = true := by decide

/-- Program P4: a full local list and an empty global list are exchanged before the push (`RECYCLE_MAX` = 4). -/
theorem test_release_swaps :
    ends (exec (.release 0) (releasing [1, 2, 3, 4] [])) .ok (fun t =>
      decide ((t.bank 0).localList = [6] ∧ t.pool.global = [1, 2, 3, 4])) = true := by decide

/-- V-POOL-3, and P4: with both lists full the buffer is freed. -/
theorem test_release_frees :
    ends (exec (.release 0) State.reset) .errState (fun _ => true) = true ∧
    ends (exec (.release 0) (releasing [1, 2, 3, 4] [7])) .ok (fun t => !t.live 6) = true := by decide

/-- V-TX-1: a one-region packet in the last slot. -/
theorem test_submit_last_slot :
    ends (exec (.submit 0 0) (withArgs (up.modTx 0 fun t => { t with fill := 3 }) 9 0)) .ok (fun t =>
      decide (readWord t.mem 0x1030 = 0xB800003C ∧ (t.tx 0).fill = 0 ∧ (t.tx 0).free = 3)) = true := by decide

/-- V-TX-4: a packet larger than the ring. -/
theorem test_submit_busy :
    ends (exec (.submit 0 0) (withArgs fiveRegions 9 0)) .busy (fun t => (t.tx 0).stopped && decide (t.mem = up.mem)) =
      true := by decide

/-- V-TX-10: every segment a frame of its own, the packet freed. -/
theorem test_submitSeg :
    ends (exec (.submitSeg 0 0) { withArgs up 9 1460 with env := { Env.reset with segAnswers := [twoSegments true] } })
      .ok (fun t => decide ((t.tx 0).inflight = [.head 20 2, .cont 0, .head 21 2, .cont 2] ∧ (t.tx 0).free = 0 ∧
        readWord t.mem 0x1030 = 0xB80002BC ∧ t.live 9 = false)) = true := by decide

/-- V-TX-11: nothing is committed. -/
theorem test_submitSeg_fails :
    ends (exec (.submitSeg 0 0) { withArgs up 9 1460 with env := { Env.reset with segAnswers := [twoSegments false] } })
      .errSegFailed (fun t => decide (t.tx 0 = up.tx 0 ∧ t.live 20 = false ∧ t.owner 9 = some .stack)) = true := by
  decide

/-- V-IRQ-1. -/
theorem test_irq :
    ends (exec (.irq 0 0) (up.modGrp 0 fun g => { g with ievent := 1 })) .ok (fun t =>
      decide ((t.bank 0).rval0 = 1 ∧ (t.grp 0).imask = 0 ∧ t.grpStat 0 = 5)) = true := by decide

/-- V-IRQ-3: a masked event raises no line. -/
theorem test_irq_masked :
    ends (exec (.irq 0 0) (up.modGrp 0 fun g => { g with ievent := 1, imask := 0 })) .errNotPending
      (fun _ => true) = true := by decide

/-- Program P1: one good frame polled; the replacement is in the slot, the group unmasked. -/
theorem test_groupPoll :
    ends (exec (.groupPoll 0 0) (withArgs (received 0x10000040) 64 0)) .ok (fun t =>
      decide ((t.bank 0).rval0 = 1 ∧ (t.bank 0).rval1 = 1 ∧ (t.rx 0).inflight = [.buf 5, .buf 2] ∧
        (t.grp 0).imask = 3 ∧ t.owner 1 = some .stack)) = true := by decide

/-- V-POLL-9: a completed TX slot without its packet. -/
theorem test_groupPoll_fault :
    ends (exec (.groupPoll 0 0) (withArgs (scheduled.modTx 0 fun t => { t with free := 3 }) 64 0)) .errFatal (fun t =>
      decide (t.readRegister 0x404 4 = 0x10 ∧ t.readRegister 0x400 4 = 0x1B ∧ (t.grp 0).imask = 0)) = true := by decide

/-- V-GRP-1, V-GRP-3. -/
theorem test_maskAll :
    ends (exec (.maskAll 0 0) up) .ok (fun t => decide ((t.grp 0).imask = 0)) = true ∧
    ends (exec (.maskAll 0 1) up) .errBadArg (fun _ => true) = true := by decide

/-- V-GRP-2. -/
theorem test_unmaskDefault :
    ends (exec (.unmaskDefault 0 0) scheduled) .ok (fun t => decide ((t.grp 0).imask = 3)) = true := by decide

/-- V-COAL-3: a lowered count fires at once. -/
theorem test_setCoalesce :
    ends (exec (.setCoalesce 0 .rx 0) (withArgs (up.modRx 0 fun r => { r with ic := ⟨16, 100⟩, pend := 3 }) 2 100)) .ok
      (fun t => decide (t.readRegister 0x610 4 = 0x00020064 ∧ (t.grp 0).ievent = 1 ∧ (t.rx 0).pend = 0)) = true := by
  decide

/-- V-COAL-4. -/
theorem test_setCoalesce_range :
    ends (exec (.setCoalesce 0 .rx 0) (withArgs up 256 0)) .errBadArg (fun _ => true) = true ∧
    ends (exec (.setCoalesce 0 .rx 0) (withArgs up 1 65536)) .errBadArg (fun _ => true) = true := by decide

/-- 95 section 2: the bring-up; what `up` says of the device, the queues and memory is what it gives. -/
theorem test_start :
    ends (exec (.start 0) { configured with env := answers }) .ok (fun t =>
      decide (t.dev = up.dev ∧ t.rx 0 = up.rx 0 ∧ t.tx 0 = up.tx 0 ∧ t.grp 0 = up.grp 0 ∧ t.mem = up.mem)) = true := by
  decide +kernel

/-- V-CTL-2: nothing configured. -/
theorem test_start_bad_config :
    ends (exec (.start 0) (State.reset.modPool fun p => { p with init := true })) .errBadConfig (fun _ => true) =
      true := by decide

/-- Program P5: everything of a halted device is freed. -/
theorem test_halt :
    ends (exec (.halt 0) ((sent 0x9800003C).setAgenda [.stopAck true])) .ok (fun t =>
      decide (t.dev.devState = .down ∧ t.live 1 = false ∧ t.live 9 = false ∧ (t.tx 0).inflight = [] ∧
        t.readRegister 0x400 4 = 0x10)) = true := by decide

/-- 44 R290: a stop that is not confirmed is a recorded fault (`LASTERR` = 0x13). -/
theorem test_halt_timeout :
    ends (exec (.halt 0) (up.setAgenda [.haltTimeout])) .ok (fun t =>
      decide (t.dev.devState = .down ∧ t.readRegister 0x404 4 = 0x13)) = true := by decide

/-- V-MTU-5, V-MTU-2. -/
theorem test_changeMtu :
    ends (exec (.changeMtu 0) (withArgs configured 1519 0)) .ok (fun t =>
      decide (t.dev.maxfrm = 1537 ∧ t.dev.rxBufSize = 2048)) = true ∧
    ends (exec (.changeMtu 0) (withArgs up 63 0)) .errInvalidMtu (fun _ => true) = true := by decide

/-- V-MTU-8: the restart finds no memory. -/
theorem test_changeMtu_restart_fails :
    ends (exec (.changeMtu 0) (withArgs (up.setAgenda [.stopAck true]) 2000 0)) .errOutOfMemory (fun t =>
      decide (t.readRegister 0x404 4 = 0x14 ∧ t.dev.mtu = 2000 ∧ t.readRegister 0x400 4 = 0x10)) = true := by decide

/-- V-LINK-1, V-LINK-2, V-LINK-3. -/
theorem test_linkChange :
    ends (exec (.linkChange 0 true true) (withArgs up 1000 0)) .ok (fun t =>
      decide (t.dev.linkcfg = 0x03E80003)) = true ∧
    ends (exec (.linkChange 0 false false) (up.modDev fun d => { d with linkcfg := 0x03E80003 })) .ok (fun t =>
      decide (t.dev.linkcfg = 0x03E80002)) = true ∧
    ends (exec (.linkChange 0 true false) (withArgs up 100 0)) .ok (fun t =>
      decide (t.dev.linkcfg = 0x00640001)) = true := by decide

/-- V-RST-1, step 2. -/
theorem test_resetTask :
    ends (exec (.resetTask 0) (restarting.modDev fun d => { d with resetPending := true, lastErr := .txTimeout })) .ok
      (fun t => decide (t.readRegister 0x400 4 = 0x13 ∧ t.readRegister 0x404 4 = 0x12 ∧ (t.tx 0).base = 0x3000 ∧
        (t.rx 0).inflight = [.buf 41, .buf 42])) = true := by decide

/-- V-WD-3. -/
theorem test_resetTask_not_pending : ends (exec (.resetTask 0) up) .errNotPending (fun _ => true) = true := by decide

/-- V-WD-1, V-WD-2. -/
theorem test_txTimeout :
    ends (exec (.txTimeout 0 0) up) .errNotPending (fun _ => true) = true ∧
    ends (exec (.txTimeout 0 0) (sent 0x9800003C)) .ok (fun t =>
      decide (t.readRegister 0x404 4 = 0x12 ∧ t.readRegister 0x400 4 = 0x1B)) = true := by decide

/-- V-STAT-1. -/
theorem test_readStats :
    ends (exec (.readStats 0) (up.count 6)) .ok (fun t => decide (t.readRegister 0x858 4 = 1)) = true := by decide

/-- V-RING-1, V-RING-3. -/
theorem test_ringInit :
    ends (exec (.ringInit 0 .tx 0) { withArgs configured 4 0 with env := answers }) .ok (fun t =>
      decide (t.mem = [(0x1030, 0x20)] ∧ (t.tx 0).free = 4)) = true ∧
    ends (exec (.ringInit 0 .tx 0) (withArgs configured 4 0)) .errOutOfMemory (fun t => !(t.tx 0).alloc) = true := by
  decide

/-- V-RING-7 and V-RING-9, on the ring of two. -/
theorem test_armRx :
    ends (exec (.armRx 0 0) (withArgs (up.setMem (writeWord up.mem 0x2010 0x10260600)) 1 0xA01C00)) .ok (fun t =>
      decide (readWord t.mem 0x2010 = 0xB0000000 ∧ readDWord t.mem 0x2018 = 0xA01C00)) = true := by decide

/-- V-RING-10, V-RING-11. -/
theorem test_slotReady :
    ends (exec (.slotReady 0 .rx 0) (withArgs (received 0x10000040) 0 0)) .ok (fun t =>
      decide ((t.bank 0).rval0 = 1)) = true ∧
    ends (exec (.slotReady 0 .tx 0) (withArgs (sent 0x9800003C) 0 0)) .ok (fun t =>
      decide ((t.bank 0).rval0 = 0)) = true := by decide

/-- V-RING-4, on the ring of two. -/
theorem test_ringNext :
    ends (exec (.ringNext 0 .rx 0) (withArgs up 0 0)) .ok (fun t => decide ((t.bank 0).rval0 = 1)) = true ∧
    ends (exec (.ringNext 0 .rx 0) (withArgs up 1 0)) .ok (fun t => decide ((t.bank 0).rval0 = 0)) = true := by decide

/-- V-RX-4: a frame with three error flags counts two classes and one length error; the buffer is armed again. -/
theorem test_rxPoll_bad :
    ends (exec (.rxPoll 0 0) (withArgs (received 0x10260600) 1 0)) .ok (fun t =>
      decide (t.stats.toList = [1, 1, 1, 0, 0, 0, 0, 0] ∧ readWord t.mem 0x2000 = 0x90000000 ∧
        (t.bank 0).localList = [5])) = true := by decide

/-- Program P3: no buffer for a good frame. -/
theorem test_rxPoll_no_buffer :
    ends (exec (.rxPoll 0 0) (withArgs ((received 0x10000040).modBank 0 fun b => { b with localList := [] }) 64 0)) .ok
      (fun t => decide (t.readRegister 0x818 4 = 1 ∧ (t.rx 0).inflight = [.buf 1, .buf 2] ∧ t.env.delivered = [])) =
      true := by decide

/-- V-TXC-3. -/
theorem test_txPoll :
    ends (exec (.txPoll 0 0) (withArgs (sent 0x18C2003C) 64 0)) .ok (fun t =>
      decide (t.stats.toList = [0, 0, 0, 0, 1, 1, 0, 0] ∧ (t.tx 0).free = 4 ∧ (t.tx 0).dirty = 1 ∧
        readWord t.mem 0x1000 = 0)) = true := by decide

/-- V-TXC-6: a budget of 0 only says whether work is left. -/
theorem test_txPoll_budget_0 :
    ends (exec (.txPoll 0 0) (withArgs (sent 0x1800003C) 0 0)) .ok (fun t =>
      decide ((t.bank 0).rval0 = 0 ∧ (t.bank 0).rval1 = 0 ∧ (t.tx 0).free = 3)) = true := by decide

/-- V-ENC-5, V-ENC-4: the codes of a reserved word and of a word on the wrong bank. -/
theorem test_step_reserved :
    ends (step (up.setAgenda [.hostWrite 0 4 0x20000001])) .errReservedOp (fun _ => true) = true ∧
    ends (step (up.setAgenda [.hostWrite 0 4 0x20010000])) .errBadArg (fun _ => true) = true := by decide

/-- V-REG-3, V-REG-4: configuration registers are written while `DOWN` only. -/
theorem test_register_write :
    (up.writeRegister 0x608 4 16).readRegister 0x608 4 = 2 ∧
    (configured.writeRegister 0x608 4 16).readRegister 0x608 4 = 16 := by decide


/-! ### The hypotheses of every statement are met -/

/-- What holds of every register of a bank and of the default holds at every index. -/
theorem forall_bank {α : Type} {n : Nat} {v : Vector α n} {d : α} {P : α → Prop} (hd : P d) (h : ∀ i : Fin n, P v[i])
    (i : Nat) : P (bankGet v d i) := by
  unfold bankGet
  split
  · exact h ⟨i, ‹_›⟩
  · exact hd

/-- What a test over a list says of its members. -/
theorem forall_mem_of {α : Type} {P : α → Prop} [DecidablePred P] {l : List α}
    (h : (l.all fun a => decide (P a)) = true) : ∀ a ∈ l, P a := by simpa using h

/-- No lock is held where no queue's and not the pool's is. -/
theorem locksFree_of {s : State} (hp : s.pool.lock = .free) (hr : ∀ i : Fin 8, s.rxq[i].lock = .free)
    (ht : ∀ i : Fin 8, s.txq[i].lock = .free) : s.locksFree := by
  intro n
  cases n with
  | pool => exact hp
  | rx q => exact forall_bank (P := fun r : RxQueue => r.lock = .free) rfl hr q
  | tx q => exact forall_bank (P := fun t : TxQueue => t.lock = .free) rfl ht q

/-- The pool is empty where no bank has a local list and the global list is empty. -/
theorem poolEmpty_of {s : State} (hb : ∀ i : Fin 16, s.banks[i].localList = []) (hg : s.pool.global = []) :
    s.poolEmpty := ⟨forall_bank (P := fun b : Bank => b.localList = []) rfl hb, hg⟩

theorem test_witness_EncodeOfDecode_DecodeFollowsOpcodeMap :
    decodeWord 0xE5020500 = .ok (.txPoll 2 5) ∧
    ∃ r ∈ opcodeTable, (0xE5020500 : Word) &&& r.2 = r.1 :=
  ⟨rfl, (0xE5000000, 0xFF0000FF), by decide, by decide⟩

/-- The last bank of the two contexts. -/
theorem test_witness_StepRunsDecodedCommand :
    let s := up.setAgenda [.hostWrite (commandOffset 1) 4 0x30010000]
    s.agenda = .hostWrite (commandOffset 1) 4 0x30010000 :: [] ∧ 1 < numBanks ∧ (s.bank 1).busy = false ∧
    (Instr.irq 1 0).ctx.toNat = 1 ∧ 1 < s.params.numCpus ∧
    decode (wordBytes 0x30010000) = .ok (.irq 1 0, []) ∧ (Instr.irq 1 0).isMicro = false :=
  ⟨rfl, by decide, by decide, rfl, by decide, rfl, rfl⟩

/-- The last bank: busy; a word of another context; a context that does not exist (V-ENC-20, V-ENC-4, V-ENC-19). -/
theorem test_witness_CommandIssueRefused :
    let s := up.setAgenda [.hostWrite (commandOffset 15) 4 0x310F0000]
    s.agenda = .hostWrite (commandOffset 15) 4 0x310F0000 :: [] ∧ 15 < numBanks ∧ (s.bank 15).busy = false ∧
    s.params.numCpus ≤ 15 ∧ ((s.modBank 15 fun b => { b with busy := true }).bank 15).busy = true ∧
    (commandFields 0x20010000).ctx.toNat ≠ 15 := by decide

/-- V-ENC-5; the first and the last micro-operation; a word above the map. -/
theorem test_witness_ReservedAndMicroWordsRefused :
    let s := up.setAgenda [.hostWrite (commandOffset 1) 4 0xE5010000]
    s.agenda = .hostWrite (commandOffset 1) 4 0xE5010000 :: [] ∧ 1 < numBanks ∧ (s.bank 1).busy = false ∧
    (commandFields 0xE5010000).ctx.toNat = 1 ∧ 1 < s.params.numCpus ∧
    ((0xE0000000 : Word) ≤ 0xE5010000 ∧ (0xE5010000 : Word) ≤ 0xE5FFFFFF ∧
      ∃ r ∈ opcodeTable, (0xE5010000 : Word) &&& r.2 = r.1) ∧
    ((0xE0000000 : Word) ≤ 0xE0010000 ∧ ∃ r ∈ opcodeTable, (0xE0010000 : Word) &&& r.2 = r.1) ∧
    (∀ r ∈ opcodeTable, (0x20010001 : Word) &&& r.2 ≠ r.1) ∧ ∀ r ∈ opcodeTable, (0xE6010000 : Word) &&& r.2 ≠ r.1 :=
  ⟨rfl, by decide, rfl, rfl, by decide, by decide, by decide, forall_mem_of (by decide), forall_mem_of (by decide)⟩

theorem test_witness_OperationEnd : 15 < numBanks ∧ (0 : Nat) ≠ 15 := by decide

/-- Group 1 of one; no event; an event. -/
theorem test_witness_IrqMasksAndSchedules :
    up.numGroups ≤ (1 : BitVec 8).toNat ∧ (0 : BitVec 8).toNat < up.numGroups ∧ up.line (0 : BitVec 8).toNat = false ∧
    let s := up.modGrp 0 fun g => { g with ievent := 1 }
    (0 : BitVec 8).toNat < s.numGroups ∧ s.dev.devState = .up ∧ s.line (0 : BitVec 8).toNat = true := by decide

/-- Queue 1 of one; nothing in flight; one frame in flight. -/
theorem test_witness_TxTimeoutRecorded :
    up.numTxq ≤ (1 : BitVec 8).toNat ∧ (0 : BitVec 8).toNat < up.numTxq ∧ (up.tx 0).free = (up.tx 0).n ∧
    let s := sent 0x9800003C
    (0 : BitVec 8).toNat < s.numTxq ∧ s.dev.devState = .up ∧ (s.tx 0).free ≠ (s.tx 0).n := by decide

theorem test_witness_RegisterOperationsFrame :
    Instr.irq 0 0 ∈ [Instr.nop 0, .maskAll 0 0, .unmaskDefault 0 0, .irq 0 0, .readStats 0, .txTimeout 0 0] ∧
    ∃ t, exec (.irq 0 0) (up.modGrp 0 fun g => { g with ievent := 1 }) = .next t :=
  ⟨by decide, _, rfl⟩

/-- The bounds of both operands, inside and outside; a queue that does not exist. -/
theorem test_witness_SetCoalesceWrites :
    let s := withArgs up 1 65535
    let t := withArgs up 255 0
    s.hasQueue .rx 0 = true ∧ 1 ≤ (s.bank 0).arg0.toNat ∧ (s.bank 0).arg0.toNat ≤ 255 ∧
    (s.bank 0).arg1.toNat ≤ 65535 ∧ s.lockOf (queueLock .rx 0) = .free ∧
    t.hasQueue .tx 0 = true ∧ (t.bank 0).arg0.toNat ≤ 255 ∧ t.lockOf (queueLock .tx 0) = .free ∧
    ((withArgs up 0 0).bank 0).arg0.toNat < 1 ∧ 255 < ((withArgs up 256 0).bank 0).arg0.toNat ∧
    65535 < ((withArgs up 1 65536).bank 0).arg1.toNat ∧ up.hasQueue .rx 1 = false := by decide

/-- The bound of the speed, outside and inside. -/
theorem test_witness_LinkChangeReprograms :
    2 ^ 16 ≤ ((withArgs up 65536 0).bank 0).arg0.toNat ∧ ((withArgs up 65535 0).bank 0).arg0.toNat < 2 ^ 16 ∧
    ∀ q, ((withArgs up 65535 0).tx q).lock = .free :=
  ⟨by decide, by decide, forall_bank (P := fun t : TxQueue => t.lock = .free) rfl (by decide)⟩

theorem test_witness_PoolInitEmpties :
    (15 : BitVec 8).toNat < numBanks ∧ configured.pool.init = true ∧
    (configured.modDev fun d => { d with ctlBusy := true }).dev.ctlBusy = true ∧
    State.reset.dev.ctlBusy = false ∧ State.reset.pool.init = false := by decide

theorem test_witness_PoolTeardownFrees :
    up.dev.devState ≠ .down ∧ State.reset.pool.init = false ∧
    let s := (releasing [5] [1]).modDev fun d => { d with devState := .down }
    s.dev.ctlBusy = false ∧ s.pool.init = true ∧ s.dev.devState = .down ∧ (1 : Handle) ∈ s.pool.global ∧
    0 < s.params.numCpus ∧ (5 : Handle) ∈ (s.bank 0).localList ∧ (s.buf 1).map (·.info.refs) = some 1 ∧
    (9 : Handle) ∉ s.pool.global ∧ ∀ c < s.params.numCpus, (9 : Handle) ∉ (s.bank c).localList := by decide

theorem test_witness_AcquireTakesPooledBuffer :
    (0 : BitVec 8).toNat < numBanks ∧ (releasing [6, 1] [2]).pool.init = true ∧
    ((releasing [6, 1] [2]).bank 0).localList = 6 :: [1] ∧
    let s := releasing [] [6, 1]
    s.pool.init = true ∧ (s.bank 0).localList = [] ∧ s.pool.lock = .free ∧ s.pool.global = 6 :: [1] := by decide

theorem test_witness_AcquireAsksAllocator :
    State.reset.pool.init = false ∧
    let s : State := { up with env := { Env.reset with bufAnswers := [none] } }
    let t : State := { up with env := { Env.reset with bufAnswers := [some (3, 0x103000)] } }
    s.pool.init = true ∧ (s.bank 0).localList = [] ∧ s.pool.lock = .free ∧ s.pool.global = [] ∧
    s.env.bufAnswers = none :: [] ∧ t.pool.init = true ∧ (t.bank 0).localList = [] ∧ t.pool.lock = .free ∧
    t.pool.global = [] ∧ t.env.bufAnswers = some (3, 0x103000) :: [] ∧ t.live 3 = false ∧
    t.freshRange (0x103000 : DWord).toNat t.bufferCapacity = true := by decide

/-- Room for one more; no room (`RECYCLE_MAX` = 4). -/
theorem test_witness_ReleaseRecycles :
    let s := releasing [1, 2, 3] []
    let t := releasing [1, 2, 3, 4] []
    (s.bank 0).arg0 = 6 ∧ s.pool.init = true ∧ s.live 6 = true ∧ s.owner 6 = some .stack ∧ s.recycleable 6 = true ∧
    (s.bank 0).localList.length < s.params.recycleMax ∧ (t.bank 0).arg0 = 6 ∧ t.pool.init = true ∧ t.live 6 = true ∧
    t.owner 6 = some .stack ∧ t.recycleable 6 = true ∧ t.params.recycleMax ≤ (t.bank 0).localList.length ∧
    0 < t.params.recycleMax ∧ t.pool.lock = .free ∧ t.pool.global = [] := by decide

/-- A handle never described; one freed before; the two ways to a `Free`. -/
theorem test_witness_ReleaseFreesOrRefuses :
    State.reset.pool.init = false ∧ up.pool.init = true ∧ up.buf ((up.bank 0).arg0) = none ∧
    (withArgs (up.freeBuf 9) 9 0).buf 9 = some { (buffer 0x109000 .freed .none) with
      live := false, info := { (buffer 0x109000 .freed .none).info with refs := 0 } } ∧
    let s := releasing [1, 2, 3, 4] [5]
    let t := (releasing [] []).modBuf 6 fun b => { b with info := { b.info with linear := false } }
    s.pool.init = true ∧ s.buf 6 = some (buffer 0x106000 .stack .none) ∧
    s.params.recycleMax ≤ (s.bank 0).localList.length ∧ s.pool.lock = .free ∧ s.pool.global ≠ [] ∧
    t.pool.init = true ∧ t.live 6 = true ∧ t.owner 6 = some .stack ∧ t.recycleable 6 = false := by decide

/-- Rings of the least and of the greatest size. -/
theorem test_witness_RingInitMakesRing :
    let s : State := { withArgs configured 1 0 with env := answers }
    let t : State := { withArgs configured 32768 0 with env := { Env.reset with ringAnswers := [none] } }
    Memory.wf s.mem ∧ s.hasQueue .rx 0 = true ∧ s.ringAlloc .rx 0 = false ∧ legalRingSize (s.bank 0).arg0.toNat = true ∧
    s.env.ringAnswers = some 0x1000 :: [some 0x2000] ∧ (0x1000 : DWord).toNat % 16 = 0 ∧
    s.freshRange (0x1000 : DWord).toNat (16 * (s.bank 0).arg0.toNat) = true ∧
    Memory.wf t.mem ∧ t.hasQueue .tx 0 = true ∧ t.ringAlloc .tx 0 = false ∧ legalRingSize (t.bank 0).arg0.toNat = true ∧
    t.env.ringAnswers = none :: [] := by decide

/-- The slot after the last; the last slot, the engine's; the last slot, software's. -/
theorem test_witness_ArmRxHandsSlotOver :
    (withArgs up 2 0).hasSlot .rx 0 ((withArgs up 2 0).bank 0).arg0.toNat = false ∧
    let s := withArgs up 1 0
    let t := withArgs (up.setMem (writeWord up.mem 0x2010 0x10000040)) 1 0
    s.hasSlot .rx 0 (s.bank 0).arg0.toNat = true ∧ 0x2010 + 16 ≤ addressSpace ∧
    (readWord s.mem 0x2010).getLsbD 31 = true ∧ t.hasSlot .rx 0 (t.bank 0).arg0.toNat = true ∧
    (readWord t.mem 0x2010).getLsbD 31 = false ∧ Memory.wf t.mem := by decide

theorem test_witness_SlotReadyAndRingNextAnswer :
    (withArgs up 4 0).hasSlot .tx 0 ((withArgs up 4 0).bank 0).arg0.toNat = false ∧
    let s := withArgs up 3 0
    s.hasSlot .tx 0 (s.bank 0).arg0.toNat = true ∧ s.desc .tx 0 3 + 4 ≤ addressSpace ∧
    (readWord s.mem (s.desc .tx 0 3)).getLsbD 29 = decide (3 + 1 = s.ringSize .tx 0) := by decide

/-- A packet of two regions that just fits, from the last slot on. -/
theorem test_witness_SubmitCommitsFrame :
    let s := withArgs ((up.modTx 0 fun t => { t with fill := 3, free := 2 }).modBuf 9 fun b =>
      { b with info := { b.info with bufs := [⟨0x109000, 1⟩, ⟨0x109100, 65535⟩], nfrags := 2 } }) 9 0
    Memory.wf s.mem ∧ s.txUsable 0 ∧ s.dev.devState = .up ∧ (s.tx 0).phase = .readyForWork ∧ (s.tx 0).lock = .free ∧
    ∃ b, s.buf 9 = some b ∧ b.live = true ∧ b.owner = .stack ∧ wellFormedPacket b.info = true ∧
      b.info.bufs.length ≤ (s.tx 0).free :=
  ⟨by decide, by decide, by decide, by decide, by decide, _, rfl, by decide⟩

/-- No such queue; a handle never described; a packet of the engine's; a queue in another phase; a device that is down;
a packet without regions; a packet one region too long. -/
theorem test_witness_SubmitTurnedAway :
    up.hasQueue .tx 1 = false ∧ up.hasQueue .tx 0 = true ∧ up.buf ((up.bank 0).arg0) = none ∧
    up.buf 1 = some (buffer 0x101000 (.slot .rx 0 0) .fromDevice) ∧
    let s := withArgs up 9 0
    let t := withArgs fiveRegions 9 0
    s.buf 9 = some (buffer 0x109000 .stack .none) ∧
    ((s.setPhase 0 .spaceCheck).tx 0).phase ≠ .readyForWork ∧ (s.tx 0).phase = .readyForWork ∧
    (s.modDev fun d => { d with devState := .down }).dev.devState ≠ .up ∧ s.dev.devState = .up ∧
    wellFormedPacket { (buffer 0x109000 .stack .none).info with bufs := [] } = false ∧ (t.tx 0).lock = .free ∧
    ∃ b, t.buf 9 = some b ∧ b.live = true ∧ b.owner = .stack ∧ wellFormedPacket b.info = true ∧
      (t.tx 0).free < requiredOf b.info :=
  ⟨by decide, by decide, by decide, by decide, by decide, by decide, by decide, by decide, by decide, by decide,
    by decide, _, rfl, by decide⟩

/-- A packet whose submit is in progress, on a queue that is busy and on one that is ready. -/
theorem test_witness_Submit_in_progress :
    let s := (withArgs up 9 1).setOwner 9 (.submitted 0)
    s.hasQueue .tx 0 = true ∧ s.owner 9 = some (.submitted 0) ∧ s.live 9 = true ∧ 1 ≤ (s.bank 0).arg1.toNat ∧
    (s.tx 0).phase = .readyForWork ∧ s.dev.devState = .up ∧
    ((s.setPhase 0 .spaceCheck).tx 0).phase ≠ .readyForWork ∧
    (s.modDev fun d => { d with devState := .stopping }).dev.devState ≠ .up := by decide

/-- Two segments that just fit, from the last slot on; the bounds of the segment size. -/
theorem test_witness_SubmitSegCommitsAll :
    let s : State := { withArgs (up.modTx 0 fun t => { t with fill := 3, dirty := 3 }) 9 65535 with
      env := { Env.reset with segAnswers := [twoSegments true] } }
    Memory.wf s.mem ∧ s.txUsable 0 ∧ s.dev.devState = .up ∧ (s.tx 0).phase = .readyForWork ∧ (s.tx 0).lock = .free ∧
    s.buf 9 = some (buffer 0x109000 .stack .none) ∧ wellFormedPacket (buffer 0x109000 .stack .none).info = true ∧
    1 ≤ (s.bank 0).arg1.toNat ∧ (s.bank 0).arg1.toNat ≤ 65535 ∧
    s.env.segAnswers = ⟨(twoSegments true).segs, true⟩ :: [] ∧ segmentsOk s (twoSegments true).segs = true ∧
    ((twoSegments true).segs.map fun e => requiredOf e.2).sum ≤ (s.tx 0).free := by decide

theorem test_witness_SubmitSegAllOrNothing :
    ((withArgs up 9 0).bank 0).arg1.toNat = 0 ∧ 65535 < ((withArgs up 9 65536).bank 0).arg1.toNat ∧
    up.hasQueue .tx 1 = false ∧ (withArgs up 8 1).buf 8 = none ∧
    let s : State := { withArgs up 9 1 with env := { Env.reset with segAnswers := [twoSegments false] } }
    let t : State := { withArgs (up.modTx 0 fun x => { x with free := 3 }) 9 1 with
      env := { Env.reset with segAnswers := [twoSegments true] } }
    s.hasQueue .tx 0 = true ∧ s.buf 9 = some (buffer 0x109000 .stack .none) ∧ 1 ≤ (s.bank 0).arg1.toNat ∧
    ((s.setPhase 0 .spaceCheck).tx 0).phase ≠ .readyForWork ∧
    (s.modDev fun d => { d with devState := .stopping }).dev.devState ≠ .up ∧
    (s.tx 0).phase = .readyForWork ∧ s.dev.devState = .up ∧ (s.tx 0).lock = .free ∧
    wellFormedPacket (buffer 0x109000 .stack .none).info = true ∧
    wellFormedPacket { (buffer 0x109000 .stack .none).info with bufs := [⟨0x109000, 65536⟩] } = false ∧
    (withArgs up 9 1).env.segAnswers = [] ∧
    s.env.segAnswers = twoSegments false :: [] ∧ segmentsOk s (twoSegments false).segs = true ∧
    (twoSegments false).complete = false ∧ t.hasQueue .tx 0 = true ∧
    t.buf 9 = some (buffer 0x109000 .stack .none) ∧ t.env.segAnswers = twoSegments true :: [] ∧
    segmentsOk t (twoSegments true).segs = true ∧ (t.tx 0).lock = .free ∧
    (t.tx 0).free < ((twoSegments true).segs.map fun e => requiredOf e.2).sum ∧
    segmentsOk s [(9, (buffer 0x10A000 .stack .none).info)] = false := by decide

/-- V-TX-8 with the same packet, 10 R32: after its tests a `SUBMIT` holds its packet, which the stack cannot free; a
second submit of it on the queue is `ERR_STATE`, on another queue and as a `RELEASE` it is `ERR_BAD_ARG`. -/
theorem test_submit_holds_packet :
    let s := (((withArgs up 9 1).modDev fun d => { d with nqueues := 0x121 }).modBank 1 fun b =>
      { b with arg0 := 9, arg1 := 1 }).setOp 0 ⟨.submit 0 0, [.dword 9]⟩
    let code (o : Host.Outcome State Fault Refusal) := after o fun u => decide ((u.bank 1).status = .errBadArg)
    let busy (o : Host.Outcome State Fault Refusal) := after o fun u => decide ((u.bank 1).status = .errState)
    after (step (s.setAgenda [.advance 0])) (fun t =>
      decide (t.owner 9 = some (.submitted 0) ∧ stackFree 9 t = t) && busy (exec (.submit 1 0) t) &&
        busy (exec (.submitSeg 1 0) t) && code (exec (.submit 1 1) t) && code (exec (.release 1) t)) = true := by
  decide +kernel

/-- 42 R203: on `BUSY` the packet is the stack's again. -/
theorem test_submit_gives_back :
    ends (exec (.submit 0 0) (withArgs (up.modTx 0 fun x => { x with free := 0 }) 9 0)) .busy
      (fun t => decide (t.owner 9 = some .stack ∧ t.bufs = up.bufs)) = true := by decide +kernel

/-- Segments over a live ring's or buffer's memory, over one another, or of 2^32 bytes are outside the collaborator's
contract (20 R82, 10 R30); the stack describes no such buffer. -/
theorem test_memory_of_new_buffers :
    let info (phys : DWord) := (buffer phys .stack .none).info
    let s : State := { up with liveRings := [(0x1000, 64), (0x2000, 32)] }
    segmentsOk s [(20, info 0x10A000)] = true ∧ segmentsOk s [(20, info 0x1010)] = false ∧
    segmentsOk s [(20, info 0x101100)] = false ∧ segmentsOk s [(20, info 0x10A000), (21, info 0x10A63F)] = false ∧
    segmentsOk s [(20, { info 0x10A000 with capacity := 2 ^ 32 })] = false ∧
    (describe 20 (info 0x10A000) s).live 20 = true ∧ (describe 9 (info 0x109001) s).phys 9 = 0x109001 ∧
    describe 20 (info 0x1010) s = s ∧ describe 20 (info 0x101100) s = s ∧
    describe 20 { info 0x10A000 with capacity := 2 ^ 32 } s = s := by decide

/-- A write of the stack to a mapped buffer, in breach of its duty, happens (70 R412). -/
theorem test_stackWrite_mapped : readByte (stackWrite 1 2 [0xAA] up).mem 0x101002 = 0xAA := by decide

/-- The bounds of the budget. -/
theorem test_witness_TxPollEnds :
    let s := withArgs (sent 0x1800003C) 0xFFFFFFFF 0
    let t := withArgs (sent 0x1800003C) 0 0
    s.txUsable 0 ∧ s.dev.devState = .up ∧ (s.tx 0).lock = .free ∧ s.pool.lock = .free ∧ 0 < s.params.recycleMax ∧
    (s.bank 0).arg0.toNat < 2 ^ 32 ∧ t.txUsable 0 ∧ (t.bank 0).arg0.toNat < 2 ^ 32 := by decide

/-- Room in the local list; a full one and an empty global list; a full one and a global list that is not empty; a packet
that is not recycleable. -/
theorem test_witness_TxPollCleansFrame :
    let s := withArgs (sent 0x18C2003C) 1 0
    let full := s.modBank 0 fun b => { b with localList := [5, 6, 7, 8] }
    Memory.wf s.mem ∧ s.txUsable 0 ∧ s.dev.devState = .up ∧ (s.tx 0).lock = .free ∧ s.pool.lock = .free ∧
    0 < s.params.recycleMax ∧ 1 ≤ (s.bank 0).arg0.toNat ∧ (s.bank 0).arg0.toNat < 2 ^ 32 ∧
    s.txEntry 0 (s.tx 0).dirty = .head 9 1 ∧ (s.tx 0).free + 1 = (s.tx 0).n ∧
    (readWord s.mem (s.desc .tx 0 (((s.tx 0).dirty + 1 - 1) % (s.tx 0).n))).getLsbD 31 = false ∧
    s.buf 9 = some { buffer 0x109000 (.slot .tx 0 0) .toDevice with live := true } ∧
    s.recycleable 9 = true ∧ (s.bank 0).localList.length < s.params.recycleMax ∧
    full.recycleable 9 = true ∧ ¬ (full.bank 0).localList.length < full.params.recycleMax ∧ full.pool.global = [] ∧
    (full.modPool fun p => { p with global := [1] }).pool.global ≠ [] ∧
    (s.modBuf 9 fun b => { b with info := { b.info with refs := 2 } }).recycleable 9 = false := by decide

/-- 10 R32: the packet leaves its in-flight entry, which is `Empty`, in the event that unmaps it and makes the context
its owner, before it is released. -/
theorem test_clean_takes_frame :
    let s := (sent 0x1800003C).setOp 0 ⟨.txPoll 0 0, [.dword 1, .flag true, .unit, .unit, .nat 0,
      .flag false, .tx (.head 9 1), .nat 4, .word 0x1800003C, .unit]⟩
    after (step (s.setAgenda [.advance 0])) (fun t =>
      decide (t.txEntry 0 0 = .empty ∧ t.owner 9 = some (.held 0) ∧ t.mapping 9 = .none)) = true := by decide +kernel

/-- An allocator that answers once, with an empty pool. -/
theorem test_witness_RxPollEnds :
    let s : State := { withArgs (received 0x10000040) 0xFFFFFFFF 0 with
      env := { Env.reset with bufAnswers := [some (7, 0x107000)] } }
    s.rxUsable 0 ∧ s.dev.devState = .up ∧ s.pool.lock = .free ∧ s.allocatorHonest ∧
    (s.bank 0).arg0.toNat < 2 ^ 32 :=
  ⟨by decide, by decide, by decide, ⟨forall_mem_of (by decide), by decide⟩, by decide⟩

theorem test_witness_RxPollDelivers :
    let s := withArgs (received 0x10000001) 1 0
    let bad := fun (s : State) (w : Word) => w.getLsbD 21 || w.getLsbD 19 ||
      decide (s.dev.maxfrm + s.hdrLen < lengthOf w) || decide (lengthOf w ≤ s.hdrLen) || w.getLsbD 20 || w.getLsbD 18 ||
      w.getLsbD 17 || w.getLsbD 16
    Memory.wf s.mem ∧ s.rxUsable 0 ∧ s.dev.devState = .up ∧ 1 ≤ (s.bank 0).arg0.toNat ∧
    (s.bank 0).arg0.toNat < 2 ^ 32 ∧ (readWord s.mem (s.desc .rx 0 (s.rx 0).cur)).getLsbD 31 = false ∧
    bad s (readWord s.mem 0x2000) = false ∧
    s.rxEntry 0 (s.rx 0).cur = .buf 1 ∧ (s.bank 0).localList = 5 :: [] ∧
    s.buf 5 = some (buffer 0x105000 (.localList 0) .none) ∧
    (readWord s.mem (s.desc .rx 0 (((s.rx 0).cur + 1) % (s.rx 0).n))).getLsbD 31 = true := by decide

/-- The longest good frame and one a byte longer (V-RX-1, V-RX-2). -/
theorem test_witness_RxPollDropsFrame :
    let bad := fun (s : State) (w : Word) => w.getLsbD 21 || w.getLsbD 19 ||
      decide (s.dev.maxfrm + s.hdrLen < lengthOf w) || decide (lengthOf w ≤ s.hdrLen) || w.getLsbD 20 || w.getLsbD 18 ||
      w.getLsbD 17 || w.getLsbD 16
    let s := withArgs (received 0x100005EF) 1 0
    let t : State := { withArgs ((received 0x100005EE).modBank 0 fun b => { b with localList := [] }) 1 0 with
      env := { Env.reset with bufAnswers := [none] } }
    Memory.wf s.mem ∧ s.rxUsable 0 ∧ s.dev.devState = .up ∧ (readWord s.mem 0x2000).getLsbD 31 = false ∧
    s.rxEntry 0 (s.rx 0).cur = .buf 1 ∧ s.buf 1 = some (buffer 0x101000 (.slot .rx 0 0) .fromDevice) ∧
    (readWord s.mem (s.desc .rx 0 (((s.rx 0).cur + 1) % (s.rx 0).n))).getLsbD 31 = true ∧
    bad s (readWord s.mem 0x2000) = true ∧
    Memory.wf t.mem ∧ t.rxUsable 0 ∧ t.rxEntry 0 (t.rx 0).cur = .buf 1 ∧
    bad t (readWord t.mem 0x2000) = false ∧
    (t.bank 0).localList = [] ∧ t.pool.global = [] ∧ t.pool.lock = .free ∧ t.env.bufAnswers = none :: [] := by decide

/-- V-POLL-9, V-POLL-10. -/
theorem test_witness_PollFaultRecorded :
    let s := withArgs ((received 0x10000040).modRx 0 fun r => { r with inflight := [.empty, .buf 2] }) 1 0
    s.dev.devState = .up ∧ 1 ≤ (s.bank 0).arg0.toNat ∧ (s.bank 0).arg0.toNat < 2 ^ 32 ∧ s.rxUsable 0 ∧
    (readWord s.mem (s.desc .rx 0 (s.rx 0).cur)).getLsbD 31 = false ∧ s.rxEntry 0 (s.rx 0).cur = .empty ∧
    let t := withArgs (scheduled.modTx 0 fun x => { x with free := 3 }) 1 0
    t.txUsable 0 ∧ (t.tx 0).free ≠ (t.tx 0).n ∧ t.txEntry 0 (t.tx 0).dirty = .empty := by decide

theorem test_witness_GroupPollEnds :
    let s := polling
    (s.locksFree ∧ (0 : BitVec 8).toNat < s.numGroups ∧ s.dev.devState = .up ∧ (s.grp 0).pollScheduled = true ∧
      (s.grp 0).pollRunning = false ∧ 1 ≤ (s.bank 0).arg0.toNat ∧ (s.bank 0).arg0.toNat < 2 ^ 32) ∧
    (∀ q < 8, (s.grp 0).rxq.getLsbD q = true → s.rxUsable q) ∧
    (∀ q < 8, (s.grp 0).txq.getLsbD q = true → s.txUsable q) ∧ s.allocatorHonest ∧ 0 < s.params.recycleMax :=
  ⟨⟨locksFree_of rfl (by decide) (by decide), by decide⟩, by decide, by decide, ⟨forall_mem_of (by decide), by decide⟩, by decide⟩

/-- Nothing completed on any queue of the group (43 R255, the example). -/
theorem test_witness_GroupPollEnds_nothing :
    let s := withArgs scheduled 64 0
    (0 : BitVec 8).toNat < s.numGroups ∧ s.dev.devState = .up ∧ (s.grp 0).pollScheduled = true ∧
    (s.grp 0).pollRunning = false ∧ 1 ≤ (s.bank 0).arg0.toNat ∧ (s.bank 0).arg0.toNat < 2 ^ 32 ∧
    (∀ q < 8, (s.grp 0).rxq.getLsbD q = true → s.rxUsable q) ∧
    (∀ q < 8, (s.grp 0).txq.getLsbD q = true → s.txUsable q) ∧
    (∀ q < 8, (s.grp 0).txq.getLsbD q = true → (s.tx q).free = (s.tx q).n) ∧
    ∀ q < 8, (s.grp 0).rxq.getLsbD q = true → (readWord s.mem (s.desc .rx q (s.rx q).cur)).getLsbD 31 = true :=
  ⟨by decide, by decide, by decide, by decide, by decide, by decide, by decide, by decide, by decide, by decide⟩

/-- V-POLL-3, 4, 5; a budget at its bounds. -/
theorem test_witness_GroupPollTurnedAway :
    up.numGroups ≤ (1 : BitVec 8).toNat ∧ ((withArgs scheduled 0 0).bank 0).arg0.toNat = 0 ∧
    2 ^ 32 ≤ ((withArgs scheduled 0x100000000 0).bank 0).arg0.toNat ∧
    let s := withArgs up 0xFFFFFFFF 0
    (0 : BitVec 8).toNat < s.numGroups ∧ 1 ≤ (s.bank 0).arg0.toNat ∧ (s.bank 0).arg0.toNat < 2 ^ 32 ∧
    (s.grp 0).pollScheduled = false := by decide

/-- The environment `answers` answers the start of `configured`. -/
theorem answers_configured : State.startAnswered { configured with env := answers } :=
  ⟨[0x1000, 0x2000], [(1, 0x101000), (2, 0x102000)],
    ⟨⟨[], rfl⟩, rfl, ⟨[], rfl⟩, ⟨[], rfl⟩, by simp, by decide, forall_mem_of (by decide), by decide, by decide⟩, rfl⟩

/-- The environment of `restarting` answers a restart, with the new sizes too. -/
theorem answers_restarting (b : Bool) :
    State.startAnswered (restarting.modDev fun d => { d with mtu := if b then 2000 else 1500 }) := by
  cases b <;> exact ⟨[0x3000, 0x4000], [(41, 0x141000), (42, 0x142000)],
    ⟨⟨[], rfl⟩, rfl, ⟨[], rfl⟩, ⟨[], rfl⟩, by simp, by decide, forall_mem_of (by decide), by decide, by decide⟩, rfl⟩

theorem test_witness_StartBringsUp_StartArmsEveryRxSlot :
    let s : State := { configured with env := answers }
    (s.poolEmpty ∧ s.startAnswered) ∧ Memory.wf s.mem ∧ s.dev.ctlBusy = false ∧ s.dev.devState = .down ∧
    s.pool.init = true ∧ s.configOk = true ∧ s.zeroCopy = false ∧ s.pool.lock = .free ∧ 0 < s.numRxq ∧
    1 < (s.rx 0).size.toNat :=
  ⟨⟨poolEmpty_of (by decide) rfl, answers_configured⟩, by decide⟩

/-- Three buffers of the right capacity in the local list, of which the start takes two. -/
def pooled : State :=
  ({ configured with
      env := answers,
      bufs := [(4, buffer 0x104000 (.localList 0) .none), (5, buffer 0x105000 (.localList 0) .none),
               (6, buffer 0x106000 (.localList 0) .none)] } : State).modBank 0 fun b => { b with localList := [5, 4, 6] }

theorem test_witness_StartArmsEveryRxSlot_pooled :
    pooled.startProvided [0x1000, 0x2000] [] ∧ Memory.wf pooled.mem ∧ pooled.dev.ctlBusy = false ∧
    pooled.dev.devState = .down ∧ pooled.pool.init = true ∧ pooled.configOk = true ∧ pooled.zeroCopy = false ∧
    pooled.dev.rxBufSize = bufferSizeOf pooled.params pooled.dev.mtu pooled.hdrLen ∧
    (pooled.bank 0).localList = [5, 4, 6] ∧ [(5 : Handle), 4, 6].Nodup ∧ pooled.startBufferCount ≤ 3 ∧
    ∀ h ∈ [(5 : Handle), 4, 6], ∃ b, pooled.buf h = some b ∧ b.live = true ∧ b.info.capacity = pooled.startCapacity :=
  ⟨⟨⟨[], rfl⟩, rfl, ⟨_, rfl⟩, ⟨[], rfl⟩, by simp, by decide, by simp, by decide, by decide⟩, by decide, by decide,
    by decide, by decide, by decide, by decide, by decide, by decide, by decide, by decide, by
      simp only [List.mem_cons, List.not_mem_nil, or_false]
      rintro h (rfl | rfl | rfl) <;> exact ⟨_, rfl, by decide⟩⟩

/-- The slots take the pool's buffers in the list's order (44 R280, 41 R180). -/
theorem test_start_pooled :
    ends (exec (.start 0) pooled) .ok (fun t =>
      decide ((t.rx 0).inflight = [.buf 5, .buf 4] ∧ (t.bank 0).localList = [6] ∧
        readDWord t.mem 0x2008 = 0x105000)) = true := by decide +kernel

theorem test_witness_StartArmsEveryRxSlot_restarts :
    let s := withArgs (restarting.modDev fun d => { d with resetPending := true }) 2000 0
    (s.poolEmpty ∧ s.startAnswered ∧ (s.modDev fun d => { d with mtu := 2000 }).startAnswered) ∧ Memory.wf s.mem ∧
    s.dev.ctlBusy = false ∧ s.pool.init = true ∧ s.configOk = true ∧ s.zeroCopy = false ∧ s.pool.lock = .free ∧
    s.dev.devState = .up ∧ s.drained ∧ s.stopComing [.coalesceTick] ∧ s.dev.resetPending = true ∧
    (s.bank 0).arg0.toNat = 2000 ∧ s.params.mtuMin ≤ 2000 ∧ 2000 ≤ s.params.mtuMax :=
  ⟨⟨poolEmpty_of (by decide) rfl, answers_restarting false, answers_restarting true⟩, by decide⟩

/-- No queue of the state has a ring, a line or a buffer. -/
theorem configured_idle (e : Env) :
    let s : State := { configured with env := e }
    s.poolEmpty ∧ (∀ k q, s.ringAlloc k q = false) ∧ (∀ g, (s.grp g).irqRegistered = false) ∧
      ∀ q i, s.rxEntry q i = .empty :=
  ⟨poolEmpty_of (s := configured) (by decide) rfl,
    fun k => match k with
      | .rx => forall_bank (v := configured.rxq) (P := fun r : RxQueue => r.alloc = false) rfl (by decide)
      | .tx => forall_bank (v := configured.txq) (P := fun r : TxQueue => r.alloc = false) rfl (by decide),
    forall_bank (v := configured.groups) (P := fun g : Group => g.irqRegistered = false) rfl (by decide),
    fun q i => by
      have h := forall_bank (v := configured.rxq) (P := fun r : RxQueue => r.inflight = []) (d := RxQueue.reset) rfl
        (by decide) q
      exact congrArg (fun l : List RxEntry => l.getD i .empty) h⟩

theorem test_witness_StartTurnedAway :
    State.reset.pool.init = false ∧
    let s : State := { configured with env := { Env.reset with ringAnswers := [none] } }
    (s.poolEmpty ∧ (∀ k q, s.ringAlloc k q = false) ∧ (∀ g, (s.grp g).irqRegistered = false) ∧
      ∀ q i, s.rxEntry q i = .empty) ∧
    s.dev.ctlBusy = false ∧ s.dev.devState = .down ∧ s.pool.init = true ∧ s.configOk = true ∧ s.zeroCopy = false ∧
    s.env.ringAnswers = none :: [] ∧ s.liveRings = [] ∧ Memory.wf s.mem ∧ s.pool.lock = .free ∧
    (s.modRx 0 fun r => { r with size := 6 }).configOk = false ∧
    (s.modDev fun d => { d with caps := 4 }).configOk = true ∧ (s.modDev fun d => { d with caps := 4 }).zeroCopy = true :=
  ⟨by decide, configured_idle _, by decide⟩

/-- V-CTL-7: no memory for the second ring. -/
def noSecondRing : Env := { Env.reset with ringAnswers := [some 0x1000, none] }
/-- V-CTL-6: no memory for the second buffer. -/
def noSecondBuffer : Env :=
  { Env.reset with ringAnswers := [some 0x1000, some 0x2000], bufAnswers := [some (1, 0x101000), none] }
/-- V-CTL-8: the line is not registered. -/
def noLine : Env := { answers with irqAnswers := [false] }

theorem test_witness_StartTurnedAway_unwinds :
    State.startFails { configured with env := noSecondRing } [0x1000] [] .errOutOfMemory Env.reset ∧
    State.startFails { configured with env := noSecondBuffer } [0x1000, 0x2000] [(1, 0x101000)] .errOutOfMemory
      Env.reset ∧
    State.startFails { configured with env := noLine } [0x1000, 0x2000] [(1, 0x101000), (2, 0x102000)] .errIrq
      Env.reset :=
  ⟨⟨⟨by simp, by decide, by simp, by decide, by decide⟩, .inl ⟨[], rfl, by decide, rfl, rfl, rfl⟩⟩,
    ⟨⟨by simp, by decide, forall_mem_of (by decide), by decide, by decide⟩,
      .inr ⟨[], [], rfl, rfl, .inl ⟨rfl, by decide, rfl, rfl⟩⟩⟩,
    ⟨⟨by simp, by decide, forall_mem_of (by decide), by decide, by decide⟩,
      .inr ⟨[], [], rfl, rfl, .inr ⟨0, [], rfl, rfl, rfl, by decide, rfl, rfl⟩⟩⟩⟩

/-- V-CTL-6, V-CTL-8: everything is freed again. -/
theorem test_start_unwinds :
    ends (exec (.start 0) { configured with env := noSecondBuffer }) .errOutOfMemory (fun t =>
      decide (t.liveRings = [] ∧ t.live 1 = false ∧ t.rx 0 = configured.rx 0 ∧ t.tx 0 = configured.tx 0 ∧
        t.readRegister 0x400 4 = 0x10)) = true ∧
    ends (exec (.start 0) { configured with env := noLine }) .errIrq (fun t =>
      decide (t.liveRings = [] ∧ t.live 2 = false ∧ t.owner 2 = some .freed ∧ t.grp 0 = configured.grp 0)) = true := by
  decide +kernel

theorem test_witness_HaltStopsAndFrees :
    let s := (sent 0x9800003C).setAgenda [.stopAck true, .coalesceTick]
    s.dev.ctlBusy = false ∧ s.dev.devState ≠ .down ∧ s.drained ∧ s.stopComing [.coalesceTick] ∧
    (s.tx 0).alloc = true ∧ s.txEntry 0 0 = .head 9 1 ∧ (s.rx 0).alloc = true ∧ s.rxEntry 0 1 = .buf 2 := by decide

/-- A reliable and an unreliable acknowledgment; the timer, with the idle bits set and not; the acknowledgment, with
`GSC` and without. -/
theorem test_witness_HaltTimesOut :
    let s (ms : List Move) := up.setAgenda ms
    let u (ms : List Move) := (s ms).modDev fun d => { d with caps := 2, idlestat := 1 }
    (s [.haltTimeout]).dev.ctlBusy = false ∧ (s [.haltTimeout]).dev.devState ≠ .down ∧ (s [.haltTimeout]).drained ∧
    (s [.haltTimeout]).dev.devevent = 0 ∧ (s [.haltTimeout]).stopAckUnreliable = false ∧
    (u []).dev.ctlBusy = false ∧ (u []).dev.devState ≠ .down ∧ (u []).drained ∧ (u []).dev.devevent = 0 ∧
    (u []).stopAckUnreliable = true ∧ (u []).dev.dmactrl = 2 ∧ (u []).dev.stopAcked = false ∧
    (u [.haltTimeout]).dev.idlestat ≠ 3 ∧ (u [.haltTimeout]).agenda = .haltTimeout :: [] ∧
    (u [.stopAck true]).agenda = .stopAck true :: [] ∧
    (u [.stopAck false, .haltTimeout]).agenda = .stopAck false :: .haltTimeout :: [] := by decide

/-- 44 R292: on the unreliable variant the idle bits confirm the stop after the timer, or do not. -/
theorem test_halt_unreliable :
    let u (ms : List Move) := (up.setAgenda ms).modDev fun d => { d with caps := 2, idlestat := 1 }
    ends (exec (.halt 0) (u [.stopAck false, .haltTimeout])) .ok (fun t => decide (t.dev.lastErr = .none)) = true ∧
    ends (exec (.halt 0) (u [.haltTimeout])) .ok (fun t => decide (t.dev.lastErr = .stopTimeout)) = true := by decide

theorem test_witness_HaltAndResetWithNothingToHalt :
    configured.dev.ctlBusy = false ∧ configured.dev.devState = .down ∧ configured.dev.resetPending = false ∧
    (configured.modDev fun d => { d with ctlBusy := true }).dev.ctlBusy = true ∧
    let s := configured.modDev fun d => { d with resetPending := true }
    s.dev.resetPending = true ∧ s.dev.ctlBusy = false ∧ s.dev.devState = .down := by decide

/-- The least and the greatest MTU; the buffer size changes with a pool, and it stays (V-MTU-4). -/
theorem test_witness_ChangeMtuWhileDown :
    let s := withArgs configured 64 0
    let t := withArgs ((releasing [6] [5]).modDev fun d => { d with devState := .down }) 9600 0
    (s.bank 0).arg0.toNat < 2 ^ 32 ∧ s.params.mtuMin ≤ (s.bank 0).arg0.toNat ∧
    (s.bank 0).arg0.toNat ≤ s.params.mtuMax ∧ s.dev.ctlBusy = false ∧ s.dev.devState = .down ∧
    (t.bank 0).arg0.toNat < 2 ^ 32 ∧ (t.bank 0).arg0.toNat ≤ t.params.mtuMax ∧ t.dev.ctlBusy = false ∧
    t.dev.devState = .down ∧ t.pool.init = true ∧
    bufferSizeOf t.params (t.bank 0).arg0.toNat t.hdrLen ≠ t.dev.rxBufSize ∧
    bufferSizeOf s.params 1518 s.hdrLen = s.dev.rxBufSize := by decide

theorem test_witness_ChangeMtuWhileUp :
    let s := withArgs restarting 2000 0
    (s.poolEmpty ∧ (s.modDev fun d => { d with mtu := 2000 }).startAnswered) ∧ (s.bank 0).arg0.toNat = 2000 ∧
    s.params.mtuMin ≤ 2000 ∧ 2000 ≤ s.params.mtuMax ∧ s.dev.ctlBusy = false ∧ s.dev.devState = .up ∧ s.drained ∧
    s.stopComing [.coalesceTick] ∧ s.pool.init = true ∧ s.configOk = true ∧ s.zeroCopy = false ∧
    s.pool.lock = .free :=
  ⟨⟨poolEmpty_of (by decide) rfl, answers_restarting true⟩, by decide⟩

/-- V-MTU-2, V-MTU-3, V-MTU-8; the first operand above 32 bits. -/
theorem test_witness_ChangeMtuFailures :
    2 ^ 32 ≤ ((withArgs up 0x100000000 0).bank 0).arg0.toNat ∧
    ((withArgs up 63 0).bank 0).arg0.toNat < up.params.mtuMin ∧
    up.params.mtuMax < ((withArgs up 9601 0).bank 0).arg0.toNat ∧
    ((withArgs up 9601 0).bank 0).arg0.toNat < 2 ^ 32 ∧
    let s : State := { withArgs (up.setAgenda [.stopAck true]) 9600 0 with
      env := { Env.reset with ringAnswers := [none] } }
    (s.modDev fun d => { d with ctlBusy := true }).dev.ctlBusy = true ∧
    (s.bank 0).arg0.toNat < 2 ^ 32 ∧ s.params.mtuMin ≤ (s.bank 0).arg0.toNat ∧
    (s.bank 0).arg0.toNat ≤ s.params.mtuMax ∧ s.dev.ctlBusy = false ∧ s.dev.devState = .up ∧ s.drained ∧
    s.stopComing [] ∧ s.configOk = true ∧ s.zeroCopy = false ∧ s.env.ringAnswers = none :: [] := by decide

/-- V-RST-1; V-RST-2, where the allocator has no memory. -/
theorem test_witness_ResetTaskRestarts :
    let s := restarting.modDev fun d => { d with resetPending := true }
    (s.poolEmpty ∧ s.startAnswered) ∧ s.dev.resetPending = true ∧ s.dev.ctlBusy = false ∧ s.dev.devState = .up ∧
    s.drained ∧ s.stopComing [.coalesceTick] ∧ s.pool.init = true ∧ s.configOk = true ∧ s.zeroCopy = false ∧
    s.pool.lock = .free ∧
    let t := s.modEnv fun e => { e with ringAnswers := [none] }
    t.dev.resetPending = true ∧ t.drained ∧ t.stopComing [.coalesceTick] ∧ t.configOk = true ∧
    t.env.ringAnswers = none :: [] :=
  ⟨⟨poolEmpty_of (by decide) rfl, answers_restarting false⟩, by decide⟩

/-- 43 R261, last row: a `HALT` that has waited for a poll which unmasked its group; its next event is the gate's. -/
theorem test_halt_begin_masks :
    let s := (up.modGrp 0 fun g => { g with imask := 3, pollScheduled := true }).setOp 0
      ⟨.halt 0, [.flag true, .flag false, .unit, .nat 1, .nat 1, .unit, .unit, .unit]⟩
    after (step (s.setAgenda [.advance 0])) (fun t =>
      decide ((t.grp 0).imask = 0 ∧ (t.grp 0).pollScheduled = false)) = true := by decide +kernel

/-- V-RST-2: `LASTERR` 0x14, `DEVSTAT` 0x10. -/
theorem test_resetTask_fails :
    ends (exec (.resetTask 0) ((restarting.modDev fun d => { d with resetPending := true }).modEnv fun e =>
      { e with ringAnswers := [none] })) .errOutOfMemory (fun t =>
      decide (t.readRegister 0x404 4 = 0x14 ∧ t.readRegister 0x400 4 = 0x10)) = true := by decide

/-- A slot of the engine, with all error flags; a slot of software; a frame a byte longer than the buffer. -/
theorem test_witness_RxFillHandsSlotBack :
    let s := up.setAgenda [.rxFill 0 0x003F [0xAA]]
    let t := (received 0x10000040).setAgenda [.rxFill 0 0 [0xAA]]
    let u := (up.modDev fun d => { d with rxBufSize := 1 }).setAgenda [.rxFill 0 0 [0xAA, 0xBB]]
    Memory.wf s.mem ∧ s.agenda = .rxFill 0 0x003F [0xAA] :: [] ∧ s.engineRxEnabled = true ∧ 0 < s.numRxq ∧
    1 ≤ ([(0xAA : Byte)].take s.dev.rxBufSize).length ∧ (0x003F : Half) &&& ~~~0x003F = 0 ∧
    (s.erx 0).base.toNat + 16 * (s.erx 0).cur = 0x2000 ∧ 0x2000 + 16 ≤ addressSpace ∧
    (readWord s.mem 0x2000).getLsbD 31 = true ∧ (readDWord s.mem 0x2008).toNat + 1 ≤ addressSpace ∧
    0x2000 + 16 ≤ (readDWord s.mem 0x2008).toNat ∧
    Memory.wf t.mem ∧ t.engineRxEnabled = true ∧ (readWord t.mem 0x2000).getLsbD 31 = false ∧
    Memory.wf u.mem ∧ u.engineRxEnabled = true ∧ u.dev.rxBufSize < [(0xAA : Byte), 0xBB].length ∧
    1 ≤ ([(0xAA : Byte), 0xBB].take u.dev.rxBufSize).length := by decide

/-- 45 R322: the frame is stored cut, with `TRUNC` and its stored length. -/
theorem test_rxFill_cut :
    after (step ((up.modDev fun d => { d with rxBufSize := 1 }).setAgenda [.rxFill 0 0 [0xAA, 0xBB]])) (fun t =>
      decide (readWord t.mem 0x2000 = 0x10010001 ∧ readByte t.mem 0x101000 = 0xAA ∧ readByte t.mem 0x101001 = 0)) =
      true := by decide

theorem test_witness_TxConsumeHandsSlotBack :
    let s := (sent 0x9800003C).setAgenda [.txConsume 0 0x00C2]
    let t := (sent 0x1800003C).setAgenda [.txConsume 0 0]
    Memory.wf s.mem ∧ s.agenda = .txConsume 0 0x00C2 :: [] ∧ s.engineTxEnabled = true ∧ (s.etx 0).idle = false ∧
    0 < s.numTxq ∧ (0x00C2 : Half) &&& ~~~0x00C2 = 0 ∧ (s.etx 0).base.toNat + 16 * (s.etx 0).cur = 0x1000 ∧
    (readWord s.mem 0x1000).getLsbD 31 = true ∧ Memory.wf t.mem ∧ t.engineTxEnabled = true ∧
    (readWord t.mem 0x1000).getLsbD 31 = false := by decide

theorem test_witness_EngineControlled :
    let s := configured.setAgenda [.rxFill 0 0 [0xAA]]
    let t := (up.modDev fun d => { d with dmactrl := 3 }).setAgenda [.stopAck false]
    let u := (up.modDev fun d => { d with dmactrl := 3, stopAcked := true }).setAgenda [.idleUpdate 0]
    let v (m : Move) := up.setAgenda [m]
    s.agenda = .rxFill 0 0 [0xAA] :: [] ∧ s.dev.dmactrl = 0 ∧ s.dev.macctrl = 0 ∧
    t.agenda = .stopAck false :: [] ∧ t.dev.dmactrl = 3 ∧ t.dev.stopAcked = false ∧
    u.agenda = .idleUpdate 0 :: [] ∧ u.dev.stopAcked = true ∧
    (v (.pollTick 0)).agenda = .pollTick 0 :: [] ∧ (v (.pollTick 0)).dev.dmactrl.getLsbD 1 = true ∧
    (v (.pollTick 0)).dev.stopAcked = false ∧ (v (.pollTick 0)).dev.macctrl.getLsbD 1 = true ∧
    (v (.idleUpdate 2)).agenda = .idleUpdate 2 :: [] ∧ (v (.idleUpdate 2)).dev.macctrl ≠ 0 := by decide

/-- The pulse that reaches `max_frames`, and the one before it; a count that saturates (V-COAL-1); a tick that reaches
`max_delay`. -/
theorem test_witness_CoalescerFiresAtThreshold :
    let s (p : Nat) := up.modRx 0 fun r => { r with ic := ⟨3, 10⟩, pend := p }
    (s 2).groupsOf .rx 0 = [0] ∧ ((s 2).ic .rx 0).maxFrames.toNat ≤ min 255 ((s 2).pend .rx 0 + 1) ∧
    (s 255).groupsOf .rx 0 = [0] ∧ ((s 255).ic .rx 0).maxFrames.toNat ≤ min 255 ((s 255).pend .rx 0 + 1) ∧
    (s 1).groupsOf .rx 0 = [0] ∧ min 255 ((s 1).pend .rx 0 + 1) < ((s 1).ic .rx 0).maxFrames.toNat ∧
    (s 1).elapsed .rx 0 < ((s 1).ic .rx 0).maxDelay.toNat ∧ ((s 1).setAgenda [.coalesceTick]).agenda =
      .coalesceTick :: [] := by decide

/-- The tenth tick fires, the ninth does not (60 R367, R368). -/
theorem test_coalesceTick :
    let s (e : Nat) := (up.modRx 0 fun r => { r with ic := ⟨3, 10⟩, pend := 1, elapsed := e }).setAgenda [.coalesceTick]
    after (step (s 9)) (fun t => decide ((t.grp 0).ievent = 1 ∧ t.pend .rx 0 = 0 ∧ t.elapsed .rx 0 = 0)) = true ∧
    after (step (s 8)) (fun t => decide ((t.grp 0).ievent = 0 ∧ t.pend .rx 0 = 1 ∧ t.elapsed .rx 0 = 9)) = true := by
  decide +kernel

theorem test_witness_RegisterAccessGuarded :
    (2 ≠ 4) ∧ (0x402 : BitVec 12).toNat % 4 ≠ 0 ∧ 0x400 ≤ (0x400 : BitVec 12).toNat ∧
    0x400 ≤ (0xFFF : BitVec 12).toNat ∧ (0x608 : BitVec 12).toNat ≠ 0x418 ∧ up.dev.devState ≠ .down ∧
    configured.dev.devState = .down ∧ configured.dev.ctlBusy = false := by decide

/-- `CMD`, `RVAL0`, reserved offsets of a bank, `DEVSTAT`, `IEVENT`, a counter, reserved offsets at both ends. -/
theorem test_witness_RegisterAccessGuarded_read_only :
    ∀ o ∈ [0x000, 0x020, 0x030, 0x3FC, 0x400, 0x500, 0x800, 0x880, 0xFFC],
      (o < 0x400 → o % 0x40 ∉ [0x08, 0x0C, 0x10, 0x14, 0x18, 0x1C]) ∧ o ∉ [0x418, 0x42C, 0x430] ∧
      ∀ j, j < 8 → o ∉ [0x508 + 0x20 * j, 0x50C + 0x20 * j, 0x510 + 0x20 * j, 0x608 + 0x20 * j, 0x708 + 0x20 * j] := by
  intro o ho
  simp only [List.mem_cons, List.not_mem_nil, or_false, not_or] at ho ⊢
  refine ⟨?_, ?_, ?_⟩ <;> omega

/-- V-REG-6, V-REG-5. -/
theorem test_register_write_config :
    (configured.writeRegister 0x430 4 0xABCDEFFF).readRegister 0x430 4 = 0xFFF ∧
    ((sent 0x9800003C).modEtx 0 fun e => { e with idle := true }).writeRegister 0x418 4 1 = sent 0x9800003C :=
  ⟨by decide, rfl⟩

theorem test_witness_OperandRegisterHalves : 15 < numBanks ∧ (14 : Nat) ≠ 15 := by decide

/-- The state after reset with a move to come meets every invariant, and the step is taken. -/
theorem test_witness_StepKeeps :
    let s := up.setAgenda [.rxFill 0 0 [0xAA]]
    (Memory.wf s.mem ∧ s.tableSorted) ∧ (s.poolBounded ∧ s.coalescerBounded) ∧
    (s.modDev fun d => { d with lastErr := .txTimeout }).dev.lastErr ≠ .none ∧ (∃ t, step s = .next t) ∧
    ∃ t, step (s.modDev fun d => { d with lastErr := .txTimeout }) = .next t :=
  ⟨by decide, ⟨⟨forall_bank (P := fun b : Bank => b.localList.length ≤ 4) (by decide) (by decide), by decide⟩,
    fun k => match k with
      | .rx => forall_bank (P := fun r : RxQueue => r.pend ≤ 255 ∧ r.elapsed ≤ 65535) (by decide) (by decide)
      | .tx => forall_bank (P := fun r : TxQueue => r.pend ≤ 255 ∧ r.elapsed ≤ 65535) (by decide) (by decide)⟩,
    by decide, ⟨_, rfl⟩, _, rfl⟩

/-- A local list of one, and an `ACQUIRE` that takes it. -/
theorem test_witness_StepKeepsPoolBounds_owned :
    let s := received 0x10000040
    s.poolOwned ∧ s.pool.lock = .free ∧ ∃ t, exec (.acquire 0) s = .next t := by
  refine ⟨⟨fun c => ?_, by decide, forall_mem_of (by decide)⟩, by decide, _, rfl⟩
  by_cases hc : c = 0
  · subst hc; exact ⟨by decide, forall_mem_of (by decide)⟩
  · have : ((received 0x10000040).bank c).localList = [] := by
      rw [received, State.bank_modBank_other _ _ (Ne.symm hc)]
      exact forall_bank (v := scheduled.banks) (P := fun b : Bank => b.localList = []) rfl (by decide) c
    exact ⟨this ▸ .nil, fun h hh => by rw [this] at hh; cases hh⟩

/-- An operation in progress that has had no event. -/
theorem test_witness_ReadStatsCopies :
    let s := (up.setAgenda [.advance 0]).setOp 0 ⟨.readStats 0, []⟩
    s.agenda = .advance 0 :: [] ∧ (s.bank 0).op = some ⟨.readStats 0, []⟩ := by decide

end Sys2Proof.Tests
end

/-! SUPPORT and PROOFS. The invariants that every step keeps (spec 10 R30, R35, R38; 60 R366, R367): the bounds of the
pool's lists, the ranges of the coalescer's counters, the order of the buffer table, and that they hold after reset.
Each is kept by every atomic update of `Update`, and so by every step (`step_updates`). -/

namespace Sys2Proof

/-- Every element of a bank of equal elements, and every read outside it, is that element. -/
@[simp] theorem bankGet_replicate {α : Type} (n : Nat) (d : α) (i : Nat) :
    bankGet (Vector.replicate n d) d i = d := by
  unfold bankGet
  split <;> simp

end Sys2Proof

namespace Sys2Proof.Machine

variable {s t : State}

/-- An invariant that every atomic update keeps is kept by every step. -/
theorem step_keeps {I : State → Prop} (hI : ∀ s t, I s → Update s t → I t) (hs : I s) (h : step s = .next t) : I t :=
  (step_updates h).keep hI hs

/-! ### The bounds of the pool's lists -/

/-- The contexts' free lists after one of them was set. -/
theorem State.localList_setLocal (s : State) (c j : Nat) (l : List Handle) :
    ((s.setLocal c l).bank j).localList = if c = j ∧ c < 16 then l else (s.bank j).localList := by
  rw [State.setLocal, State.bank_modBank]
  split <;> rfl

/-- A change of a bank that leaves its free list leaves every free list. -/
theorem State.localList_modBank_same (s : State) {c : Nat} {f : Bank → Bank} (h : ∀ b, (f b).localList = b.localList)
    (j : Nat) : ((s.modBank c f).bank j).localList = (s.bank j).localList := by
  rw [State.bank_modBank]
  split
  · rename_i hj
    rw [h, hj.1]
  · rfl

/-- No update writes the parameters (00 R8). -/
theorem Update.params_eq (h : Update s t) : t.params = s.params := by
  cases h with
  | coalescer k => cases k <;> rfl
  | _ => rfl

/-- A free list set to one that is no longer than `RECYCLE_MAX` keeps the bounds. -/
theorem State.poolBounded.setLocal (hs : s.poolBounded) (c : Nat) {l : List Handle}
    (hl : l.length ≤ s.params.recycleMax) : (s.setLocal c l).poolBounded := by
  obtain ⟨hlocal, hglobal⟩ := hs
  refine ⟨fun j => ?_, hglobal⟩
  rw [State.localList_setLocal]
  split
  · exact hl
  · exact hlocal j

/-- Every atomic update keeps every list of the pool within `RECYCLE_MAX`: lists lose handles, are pushed while there is
room, or are exchanged (41 R180, R186, R190). -/
theorem Update.poolBounded (h : Update s t) (hs : s.poolBounded) : t.poolBounded := by
  have ⟨hlocal, hglobal⟩ := hs
  cases h with
  | bank c f hf => exact ⟨fun j => by simpa [s.localList_modBank_same hf] using hlocal j, hglobal⟩
  | takeLocal c l hl => exact hs.setLocal c (Nat.le_trans hl.length_le (hlocal c))
  | pushLocal c h hl => exact hs.setLocal c hl
  | swap c => exact ⟨(hs.setLocal c hglobal).1, hlocal c⟩
  | pool f hf => exact ⟨hlocal, Nat.le_trans (hf _).length_le hglobal⟩
  | coalescer k => cases k <;> exact hs
  | _ => exact hs

/-! ### The ranges of the coalescer's counters -/

/-- A change of an RX queue whose new counters are in their ranges. -/
theorem State.coalescerBounded.modRx (hs : s.coalescerBounded) (q : Nat) {f : RxQueue → RxQueue}
    (hf : (f (s.rx q)).pend ≤ 255 ∧ (f (s.rx q)).elapsed ≤ 65535) : (s.modRx q f).coalescerBounded := by
  intro k j
  cases k with
  | rx =>
    simp only [State.pend, State.elapsed, State.rx_modRx]
    split
    · exact hf
    · exact hs .rx j
  | tx => exact hs .tx j

/-- A change of a TX queue whose new counters are in their ranges. -/
theorem State.coalescerBounded.modTx (hs : s.coalescerBounded) (q : Nat) {f : TxQueue → TxQueue}
    (hf : (f (s.tx q)).pend ≤ 255 ∧ (f (s.tx q)).elapsed ≤ 65535) : (s.modTx q f).coalescerBounded := by
  intro k j
  cases k with
  | rx => exact hs .rx j
  | tx =>
    simp only [State.pend, State.elapsed, State.tx_modTx]
    split
    · exact hf
    · exact hs .tx j

/-- Every atomic update keeps the coalescer's counters in their ranges: the coalescer's own update alone writes them
(60 R366, R367). -/
theorem Update.coalescerBounded (h : Update s t) (hs : s.coalescerBounded) : t.coalescerBounded := by
  cases h with
  | rx q f hf =>
    obtain ⟨hpend, helapsed⟩ := hf (s.rx q)
    exact hs.modRx q (by rw [hpend, helapsed]; exact hs .rx q)
  | tx q f hf =>
    obtain ⟨hpend, helapsed⟩ := hf (s.tx q)
    exact hs.modTx q (by rw [hpend, helapsed]; exact hs .tx q)
  | coalescer k q p e hp he =>
    obtain ⟨hpend, helapsed⟩ := hs k q
    have bounds : p ≤ 255 ∧ e ≤ 65535 := by omega
    cases k with
    | rx => exact hs.modRx q bounds
    | tx => exact hs.modTx q bounds
  | _ => exact hs

/-! ### The order of the buffer table -/

/-- A change of an entry keeps the handles of the table. -/
theorem changeBuf_handles (l : List (Handle × Buffer)) (h : Handle) (f : Buffer → Buffer) :
    ((changeBuf l h f).map fun e => e.1.toNat) = l.map fun e => e.1.toNat := by
  induction l with
  | nil => rfl
  | cons e l ih =>
    simp only [changeBuf]
    split
    · rfl
    · simp [ih]

/-- The handles of the table after an entry was set are those before it and the one set. -/
theorem mem_insertBuf {l : List (Handle × Buffer)} {h : Handle} {b : Buffer} {e : Handle × Buffer}
    (he : e ∈ insertBuf l h b) : e ∈ l ∨ e = (h, b) := by
  induction l with
  | nil => simpa [insertBuf] using he
  | cons d l ih =>
    simp only [insertBuf] at he
    split at he
    · exact (List.mem_cons.1 he).symm
    · split at he
      · exact (List.mem_cons.1 he).symm.imp_left (List.mem_cons_of_mem d)
      · rcases List.mem_cons.1 he with rfl | he
        · exact .inl List.mem_cons_self
        · exact (ih he).imp_left (List.mem_cons_of_mem d)

/-- Setting an entry keeps the handles rising. -/
theorem insertBuf_sorted {l : List (Handle × Buffer)} (h : Handle) (b : Buffer)
    (hl : (l.map fun e => e.1.toNat).Pairwise (· < ·)) :
    ((insertBuf l h b).map fun e => e.1.toNat).Pairwise (· < ·) := by
  simp only [List.pairwise_map] at hl ⊢
  induction l with
  | nil => simp [insertBuf]
  | cons d l ih =>
    obtain ⟨hd, hrest⟩ := List.pairwise_cons.1 hl
    simp only [insertBuf]
    split
    · rename_i hlt
      refine List.pairwise_cons.2 ⟨fun e he => ?_, hl⟩
      rcases List.mem_cons.1 he with rfl | he
      · exact hlt
      · exact Nat.lt_trans hlt (hd e he)
    · rename_i hge
      split
      · rename_i heq
        exact List.pairwise_cons.2 ⟨fun e he => heq ▸ hd e he, hrest⟩
      · rename_i hne
        refine List.pairwise_cons.2 ⟨fun e he => ?_, ih hrest⟩
        rcases mem_insertBuf he with he | rfl
        · exact hd e he
        · have : h.toNat ≠ d.1.toNat := fun hn => hne (BitVec.eq_of_toNat_eq hn)
          show d.1.toNat < h.toNat
          omega

/-- Every atomic update keeps the buffer table in its order (10 R30). -/
theorem Update.tableSorted (h : Update s t) (hs : s.tableSorted) : t.tableSorted := by
  cases h with
  | buffer h f =>
    rw [State.tableSorted, State.modBuf_bufs, changeBuf_handles]
    exact hs
  | newBuffer h b => exact insertBuf_sorted h b hs
  | coalescer k => cases k <;> exact hs
  | _ => exact hs

/-! ### After reset -/

/-- The pool's lists are empty after reset (10 R50). -/
theorem poolBounded_reset : State.reset.poolBounded :=
  ⟨fun c => by simp [State.reset, State.resetWith, State.bank, Bank.reset], Nat.zero_le _⟩

/-- The coalescer's counters are 0 after reset (10 R38). -/
theorem coalescerBounded_reset : State.reset.coalescerBounded := by
  intro k q
  cases k with
  | rx => simp [State.reset, State.resetWith, State.pend, State.elapsed, State.rx, RxQueue.reset]
  | tx => simp [State.reset, State.resetWith, State.pend, State.elapsed, State.tx, TxQueue.reset]

/-! ### The lists of the pool, the local ones and the global one alike -/

/-- A list of the pool: the local list of a context, or the global list (10 R34). -/
def State.poolList (s : State) : Option Nat → List Handle
  | some c => (s.bank c).localList
  | none => s.pool.global

/-- The owner that a list of the pool gives its handles (10 R32). -/
def listOwner : Option Nat → Owner
  | some c => .localList c
  | none => .globalList

/-- There is no local list beyond the 16 contexts (10 R34). -/
theorem State.lt_of_mem_localList {c : Nat} {h : Handle} (hm : h ∈ (s.bank c).localList) : c < 16 := by
  refine Decidable.byContradiction fun hc => ?_
  rw [State.bank, bankGet, dif_neg hc] at hm
  cases hm

/-- The handle is in a list of the pool. -/
def State.pooled (s : State) (h : Handle) : Prop := ∃ p, h ∈ s.poolList p

/-- The form of the pool, one condition for every list. -/
theorem State.poolOwned_iff : s.poolOwned ↔ ∀ p, (s.poolList p).Nodup ∧
    ∀ h ∈ s.poolList p, s.live h = true ∧ s.owner h = some (listOwner p) :=
  ⟨fun hs p => match p with
    | some c => hs.1 c
    | none => hs.2, fun h => ⟨fun c => h (some c), h none⟩⟩

/-- A handle's owner says in which list it is. -/
theorem listOwner_injective {p q : Option Nat} (h : listOwner p = listOwner q) : p = q := by
  match p, q, h with
  | none, none, _ => rfl
  | some _, some _, h => exact congrArg some (Owner.localList.inj h)

theorem State.poolList_setLocal (s : State) (c : Nat) (l : List Handle) (p : Option Nat) :
    (s.setLocal c l).poolList p = if p = some c ∧ c < 16 then l else s.poolList p := by
  cases p with
  | none => rw [if_neg (by simp)]; rfl
  | some d => simp only [State.poolList, State.localList_setLocal, Option.some.injEq, eq_comm (a := d)]

theorem State.poolList_modBuf (s : State) (h : Handle) (f : Buffer → Buffer) (p : Option Nat) :
    (s.modBuf h f).poolList p = s.poolList p := by cases p <;> rfl

theorem State.poolList_finish (s : State) (c : Nat) (r : Result) (p : Option Nat) :
    (s.finish c r).poolList p = s.poolList p := by
  cases p with
  | none => rfl
  | some d => exact s.localList_modBank_same (by intro b; rfl) d

/-- The list that a handle comes to where the list of context `c` and the global list are exchanged (41 R183). -/
def exchanged (c : Nat) : Option Nat → Option Nat
  | none => some c
  | some d => if d = c then none else some d

theorem exchanged_same (c : Nat) : exchanged c (some c) = none := if_pos rfl

theorem exchanged_other {c d : Nat} (h : d ≠ c) : exchanged c (some d) = some d := if_neg h

/-- The exchange is its own inverse. -/
theorem exchanged_exchanged (c : Nat) (p : Option Nat) : exchanged c (exchanged c p) = p := by
  cases p with
  | none => exact exchanged_same c
  | some d =>
    by_cases hd : d = c
    · rw [hd, exchanged_same]
      rfl
    · rw [exchanged_other hd, exchanged_other hd]

/-- A swap exchanges the context's list and the global list (41 R183). -/
theorem State.poolList_swapLists (s : State) {c : Nat} (hc : c < 16) (p : Option Nat) :
    (s.swapLists c).poolList p = s.poolList (exchanged c p) := by
  cases p with
  | none => simp only [exchanged, State.poolList, State.pool_swapLists]
  | some d =>
    have list : (s.swapLists c).poolList (some d) = if c = d ∧ c < 16 then s.pool.global else s.poolList (some d) := by
      simp only [State.poolList, State.bank_swapLists, State.localList_setLocal]
    rw [list]
    by_cases hd : d = c
    · rw [hd, exchanged_same, if_pos ⟨rfl, hc⟩]
      rfl
    · rw [exchanged_other hd, if_neg fun both => hd both.1.symm]

theorem State.pooled_modBuf {h x : Handle} {f : Buffer → Buffer} : (s.modBuf h f).pooled x ↔ s.pooled x := by
  simp only [State.pooled, State.poolList_modBuf]

/-- `push(local[c], h)`: the handle at the head of the context's list, which owns it (41 R180, R189). -/
def State.pushed (s : State) (c : Nat) (h : Handle) : State :=
  (s.setLocal c (h :: (s.bank c).localList)).setOwner h (.localList c)

theorem State.poolList_pushed (s : State) (c : Nat) (h : Handle) (p : Option Nat) :
    (s.pushed c h).poolList p = if p = some c ∧ c < 16 then h :: (s.bank c).localList else s.poolList p := by
  rw [State.pushed, State.setOwner, State.poolList_modBuf, State.poolList_setLocal]

/-- A swap puts no handle into the pool (41 R183). -/
theorem State.pooled_of_swapLists {c : Nat} {h : Handle} (hc : c < 16) (hp : (s.swapLists c).pooled h) :
    s.pooled h := by
  obtain ⟨p, hm⟩ := hp
  exact ⟨_, State.poolList_swapLists s hc p ▸ hm⟩

/-! ### Live handles and owners after an update -/

theorem State.live_of_buf {x : Handle} (h : t.buf x = s.buf x) : t.live x = s.live x := by
  simp only [State.live, h]

theorem State.owner_of_buf {x : Handle} (h : t.buf x = s.buf x) : t.owner x = s.owner x := by
  simp only [State.owner, h]

@[simp] theorem State.live_setOwner (s : State) (h x : Handle) (o : Owner) : (s.setOwner h o).live x = s.live x := by
  simp only [State.live, State.setOwner, State.buf_modBuf]
  split <;> simp [Function.comp_def]

theorem State.owner_setOwner_other (s : State) {h x : Handle} (hx : x ≠ h) (o : Owner) :
    (s.setOwner h o).owner x = s.owner x := State.owner_of_buf (State.buf_modBuf_other s _ hx)

/-- A live handle has an entry, which records its owner. -/
theorem State.owner_setOwner_same {h : Handle} (hl : s.live h = true) (o : Owner) :
    (s.setOwner h o).owner h = some o := by
  cases hb : s.buf h with
  | none => simp [State.live, hb] at hl
  | some b => simp [State.owner, State.setOwner, hb]

theorem State.live_swapLists (s : State) (c : Nat) (x : Handle) : (s.swapLists c).live x = s.live x := by
  simp only [State.live, State.buf_swapLists]
  split
  · simp [Function.comp_def]
  · split <;> simp [Function.comp_def]

/-! ### The pool's lists of distinct live handles they own (10 R35) -/

namespace State.poolOwned

variable {c : Nat} {h : Handle} {l : List Handle}

/-- A handle is in one list at most. -/
theorem list_unique (hs : s.poolOwned) {p q : Option Nat} (hp : h ∈ s.poolList p) (hq : h ∈ s.poolList q) : p = q := by
  rw [poolOwned_iff] at hs
  have owner := ((hs p).2 h hp).2.symm.trans ((hs q).2 h hq).2
  exact listOwner_injective (Option.some.inj owner)

/-- A handle in the pool is live. -/
theorem live_of_pooled (hs : s.poolOwned) (hp : s.pooled h) : s.live h = true := by
  obtain ⟨p, hp⟩ := hp
  exact ((poolOwned_iff.1 hs p).2 h hp).1

/-- A handle that something other than a list owns is not in the pool. -/
theorem not_pooled_of_owner (hs : s.poolOwned) {o : Owner} (ho : s.owner h = some o) (hn : ∀ p, o ≠ listOwner p) :
    ¬ s.pooled h := by
  rintro ⟨p, hp⟩
  exact hn p (Option.some.inj (ho.symm.trans ((poolOwned_iff.1 hs p).2 h hp).2))

/-- Lists that only lose handles, with the entries of what is left unchanged. -/
theorem shrink (hs : s.poolOwned) (hlist : ∀ p, (t.poolList p).Sublist (s.poolList p))
    (hbuf : ∀ x, t.pooled x → t.buf x = s.buf x) : t.poolOwned := by
  rw [poolOwned_iff] at hs ⊢
  refine fun p => ⟨(hs p).1.sublist (hlist p), fun x hx => ?_⟩
  have same := hbuf x ⟨p, hx⟩
  rw [live_of_buf same, owner_of_buf same]
  exact (hs p).2 x ((hlist p).subset hx)

/-- A change of the entry of a handle outside the pool. -/
theorem modBuf (hs : s.poolOwned) (hp : ¬ s.pooled h) (f : Buffer → Buffer) : (s.modBuf h f).poolOwned :=
  hs.shrink (fun p => by simp only [poolList_modBuf, List.Sublist.refl]) fun _ hx =>
    State.buf_modBuf_other s f (by rintro rfl; exact hp (pooled_modBuf.1 hx))

/-- A local list that loses handles. -/
theorem setLocal (hs : s.poolOwned) (hl : l.Sublist (s.bank c).localList) : (s.setLocal c l).poolOwned := by
  refine hs.shrink (fun p => ?_) fun _ _ => rfl
  rw [poolList_setLocal]
  split
  · rename_i hp
    exact hp.1 ▸ hl
  · exact .refl _

/-- The end of an operation. -/
theorem finish (hs : s.poolOwned) (c : Nat) (r : Result) : (s.finish c r).poolOwned :=
  hs.shrink (fun p => by simp only [poolList_finish, List.Sublist.refl]) fun _ _ => rfl

/-- The head of a local list, taken out, is in no list (41 R180). -/
theorem not_pooled_tail (hs : s.poolOwned) (hl : (s.bank c).localList = h :: l) (hc : c < 16) :
    ¬ (s.setLocal c l).pooled h := by
  have head : h ∈ s.poolList (some c) := by simp [poolList, hl]
  rintro ⟨p, hp⟩
  rw [poolList_setLocal] at hp
  split at hp
  · have nodup := (hs.1 c).1
    rw [hl] at nodup
    exact (List.nodup_cons.1 nodup).1 hp
  · rename_i hne
    exact hne ⟨hs.list_unique hp head, hc⟩

/-- `pop`: the head of a local list taken out, with another owner (41 R180). -/
theorem pop (hs : s.poolOwned) (hl : (s.bank c).localList = h :: l) (hc : c < 16) (o : Owner) :
    ((s.setLocal c l).setOwner h o).poolOwned ∧ ¬ ((s.setLocal c l).setOwner h o).pooled h := by
  have out := hs.not_pooled_tail hl hc
  exact ⟨(hs.setLocal (by simp [hl])).modBuf out _, fun hp => out (pooled_modBuf.1 hp)⟩

/-- `push` of a live handle that is in no list (41 R180). -/
theorem push (hs : s.poolOwned) (hp : ¬ s.pooled h) (hl : s.live h = true) : (s.pushed c h).poolOwned := by
  rw [poolOwned_iff] at hs ⊢
  intro p
  have others : ∀ x ∈ s.poolList p, (s.pushed c h).live x = true ∧ (s.pushed c h).owner x = some (listOwner p) := by
    intro x hx
    rw [pushed, live_setOwner, owner_setOwner_other _ ((by rintro rfl; exact hp ⟨p, hx⟩))]
    exact (hs p).2 x hx
  rw [poolList_pushed]
  split
  · rename_i hpc
    obtain ⟨rfl, -⟩ := hpc
    refine ⟨List.nodup_cons.2 ⟨fun hm => hp ⟨some c, hm⟩, (hs (some c)).1⟩, fun x hx => ?_⟩
    rcases List.mem_cons.1 hx with rfl | hx
    · exact ⟨(live_setOwner _ _ _ _).trans hl, owner_setOwner_same (s := s.setLocal c _) hl _⟩
    · exact others x hx
  · exact ⟨(hs p).1, others⟩

/-- After the exchange each handle is owned by the list that it has come to (41 R183). -/
theorem owner_swapLists (hs : s.poolOwned) (c : Nat) {p : Option Nat} (hp : h ∈ s.poolList p) :
    (s.swapLists c).owner h = some (listOwner (exchanged c p)) := by
  obtain ⟨b, hb, hown⟩ : ∃ b, s.buf h = some b ∧ b.owner = listOwner p := by
    simpa [owner] using ((poolOwned_iff.1 hs p).2 h hp).2
  have mem : ∀ q, h ∈ s.poolList q ↔ q = p := fun q => ⟨fun hq => hs.list_unique hq hp, fun e => e ▸ hp⟩
  have inGlobal : h ∈ s.pool.global ↔ none = p := mem none
  have inLocal : h ∈ (s.bank c).localList ↔ some c = p := mem (some c)
  simp only [owner, buf_swapLists, inGlobal, inLocal, hb]
  cases p with
  | none => simp only [if_true, Option.map_some, exchanged, listOwner]
  | some d =>
    rw [if_neg (by simp)]
    by_cases hd : d = c
    · rw [hd, exchanged_same, if_pos rfl]
      rfl
    · rw [exchanged_other hd, if_neg fun e => hd (Option.some.inj e).symm, Option.map_some, hown]

/-- The exchange of a context's list and the global list (41 R183). -/
theorem swapLists (hs : s.poolOwned) (hc : c < 16) : (s.swapLists c).poolOwned := by
  refine poolOwned_iff.2 fun p => ?_
  have ⟨nodup, owned⟩ := poolOwned_iff.1 hs (exchanged c p)
  rw [poolList_swapLists s hc]
  refine ⟨nodup, fun x hx => ⟨(live_swapLists s c x).trans (owned x hx).1, ?_⟩⟩
  rw [hs.owner_swapLists c hx, exchanged_exchanged]

/-- A buffer freed that is in no list (45 R333). -/
theorem freeBuf (hs : s.poolOwned) (hp : ¬ s.pooled h) : (s.freeBuf h).poolOwned := hs.modBuf hp _

/-- An entry set for a handle that is not live (45 R332). -/
theorem newBuffer (hs : s.poolOwned) (hl : s.live h = false) (b : Buffer) :
    (s.setBufs (insertBuf s.bufs h b)).poolOwned ∧ ¬ (s.setBufs (insertBuf s.bufs h b)).pooled h := by
  have list : ∀ p, (s.setBufs (insertBuf s.bufs h b)).poolList p = s.poolList p := fun p => by cases p <;> rfl
  have out : ¬ (s.setBufs (insertBuf s.bufs h b)).pooled h := fun ⟨p, hp⟩ => by
    simp [hs.live_of_pooled ⟨p, list p ▸ hp⟩] at hl
  refine ⟨hs.shrink (fun p => by simp only [list, List.Sublist.refl]) fun x hx => ?_, out⟩
  exact (State.buf_insertBuf s h x b).trans (if_neg (by rintro rfl; exact out hx))

/-- A local list emptied and its buffers freed (41 R182). -/
theorem purgeLocal (hs : s.poolOwned) (c : Nat) :
    (((s.bank c).localList.foldl State.freeBuf s).setLocal c []).poolOwned := by
  have lists : ∀ p, (((s.bank c).localList.foldl State.freeBuf s).setLocal c []).poolList p =
      if p = some c ∧ c < 16 then [] else s.poolList p := fun p => by
    rw [poolList_setLocal, State.freeAll_eq]
    cases p <;> rfl
  refine hs.shrink (fun p => ?_) fun x ⟨p, hx⟩ => ?_
  · rw [lists]
    split
    · exact List.nil_sublist _
    · exact .refl _
  · rw [lists] at hx
    split at hx
    · cases hx
    · rename_i hne
      refine State.buf_freeAll_other s _ x fun hm => hne ⟨?_, lt_of_mem_localList hm⟩
      exact hs.list_unique hx (q := some c) hm

/-- The global list emptied and its buffers freed (41 R182). -/
theorem purgeGlobal (hs : s.poolOwned) :
    ((s.pool.global.foldl State.freeBuf s).modPool fun p => { p with global := [] }).poolOwned := by
  have lists : ∀ c, ((s.pool.global.foldl State.freeBuf s).modPool fun p => { p with global := [] }).poolList (some c) =
      s.poolList (some c) := fun c => by
    rw [State.freeAll_eq]
    rfl
  refine hs.shrink (fun p => ?_) fun x ⟨p, hx⟩ => ?_
  · cases p with
    | none => exact List.nil_sublist _
    | some c => simp only [lists, List.Sublist.refl]
  · cases p with
    | none => cases hx
    | some c =>
      rw [lists] at hx
      exact State.buf_freeAll_other s _ x fun hm => by cases hs.list_unique hx (q := none) hm

/-- Purging the pool keeps its form (41 R182). -/
theorem purged (hs : s.poolOwned) : s.purged.poolOwned :=
  purgeGlobal (List.foldlRecOn _ _ hs fun _ hu c _ => hu.purgeLocal c)

end State.poolOwned

/-! ### Programs that end well or are refused -/

/-- From `s` the program never waits: it comes to its end, in a state with `Q`, or the machine refuses a step of it. -/
def Prog.Yields (Q : State → Prop) (p : Prog) (s : State) : Prop :=
  (∃ r t, p.Ends s r t ∧ Q t) ∨ ∃ x, ∀ log, p.run s log = .refuse x

/-- A step of an operation whose program yields `Q` keeps `Q`, where the operation's end does. -/
theorem exec_of_yields {Q : State → Prop} {i : Instr} (hp : (progOf i).Yields Q s)
    (hend : ∀ u r, Q u → Q (u.finish i.ctx.toNat r)) (he : exec i s = .next t) : Q t := by
  rw [exec_eq_execute] at he
  rcases hp with ⟨r, u, ends, hu⟩ | ⟨x, refused⟩
  · rw [execute_of_ends ends] at he
    cases he
    exact hend u r hu
  · simp [execute, refused] at he

namespace Prog

variable {Q : State → Prop} {p q : Prog} {c : Nat} {h : Handle}

theorem Ends.yields {r : Result} (h : p.Ends s r t) (ht : Q t) : p.Yields Q s := .inl ⟨r, t, h, ht⟩

theorem yields_done (c : Code) (hs : Q s) : (Prog.done c).Yields Q s := Ends.yields (ends_done.2 ⟨rfl, rfl⟩) hs

/-- What a program comes to decides what it yields. -/
theorem Reaches.yields (hr : p.Reaches s q t) (hq : q.Yields Q t) : p.Yields Q s := by
  rcases hq with ⟨r, u, ends, hu⟩ | ⟨x, refused⟩
  · exact .inl ⟨r, u, hr.ends_iff.2 ends, hu⟩
  · refine .inr ⟨x, fun log => ?_⟩
    obtain ⟨log', e⟩ := hr log
    exact e.trans (refused log')

/-- An event that the machine refuses. -/
theorem yields_refused {f : State → Event} {k : Resp → Prog} {x : Refusal} (hx : f s = .refuse x) :
    (Prog.ev f k).Yields Q s := .inr ⟨x, fun log => by simp [run, occur, hx]⟩

/-- `pop` of a list that was filled keeps the pool's form; an empty one is refused (41 R185; log 25). -/
theorem popFilled_yields {k : Option Handle → Prog} (hs : s.poolOwned) (hc : c < 16)
    (hk : ∀ h u, u.poolOwned → ¬ u.pooled h → (k (some h)).Yields Q u) : (popFilled c k).Yields Q s := by
  cases hl : (s.bank c).localList with
  | nil => exact yields_refused (x := .hostDuty) (by simp [hl])
  | cons h l =>
    obtain ⟨owned, out⟩ := hs.pop hl hc (.held c)
    exact (reaches_event (a := .handle (some h)) (by simp [hl])).yields (hk h _ owned out)

/-- `Alloc` keeps the pool's form: its handle was not live, so it is in no list (45 R332). -/
theorem alloc_yields {k : Option Handle → Prog} (hs : s.poolOwned) (hnone : ∀ u, u.poolOwned → (k none).Yields Q u)
    (hsome : ∀ h u, u.poolOwned → ¬ u.pooled h → (k (some h)).Yields Q u) : (Prog.alloc c k).Yields Q s := by
  match ha : s.env.bufAnswers with
  | [] => exact (reaches_event (a := .handle none) (by simp [ha])).yields (hnone s hs)
  | none :: rest =>
    have taken : (s.modEnv fun e => { e with bufAnswers := rest }).poolOwned := hs
    exact (reaches_event (a := .handle none) (by simp [ha])).yields (hnone _ taken)
  | some (h, a) :: rest =>
    by_cases honest : s.live h = false ∧ s.freshRange a.toNat s.bufferCapacity = true
    · have taken : (s.modEnv fun e => { e with bufAnswers := rest }).poolOwned := hs
      obtain ⟨owned, out⟩ := taken.newBuffer honest.1 (freshBuffer c s.bufferCapacity a)
      exact (reaches_event (a := .handle (some h)) (by simp [ha, honest])).yields (hsome h _ owned out)
    · exact yields_refused (x := .allocatorContract) (by simpa [ha] using honest)

/-- `ACQUIRE` with the pool's lock free keeps the pool's form, and its handle is in no list (41 R185, R186). -/
theorem acquire_yields {k : Option Handle → Prog} (hs : s.poolOwned) (hlock : s.pool.lock = .free) (hc : c < 16)
    (hnone : ∀ u, u.poolOwned → (k none).Yields Q u)
    (hsome : ∀ h u, u.poolOwned → ¬ u.pooled h → (k (some h)).Yields Q u) : (acquire c k).Yields Q s := by
  cases hl : (s.bank c).localList with
  | cons h l =>
    obtain ⟨owned, out⟩ := hs.pop hl hc (.held c)
    exact (reaches_event (a := .handle (some h)) (by simp [hl])).yields (hsome h _ owned out)
  | nil =>
    have locked : (s.setLock .pool (.held c)).poolOwned := hs
    refine (reaches_event (t := s) (a := .handle none) (by simp [hl])).yields ?_
    refine (reaches_lock (n := .pool) c hlock).yields ((reaches_askFlag _ _).yields ?_)
    split
    · exact (reaches_set _).yields ((reaches_unlock .pool).yields (popFilled_yields (locked.swapLists hc) hc hsome))
    · exact (reaches_unlock .pool).yields (alloc_yields locked hnone hsome)

/-- `push` after a swap keeps the pool's form; a list without room is refused (41 R180; log 25). -/
theorem pushEmptied_yields (hs : s.poolOwned) (hp : ¬ s.pooled h) (hl : s.live h = true)
    (hk : ∀ u, u.poolOwned → p.Yields Q u) : (pushEmptied c h p).Yields Q s := by
  by_cases room : (s.bank c).localList.length < s.params.recycleMax
  · exact (reaches_event (a := .unit) (if_pos room)).yields (hk _ (hs.push hp hl))
  · exact yields_refused (x := .hostDuty) (by simp [room])

/-- `RELEASE` of a live handle outside the pool keeps the pool's form, with the lock free (41 R189, R190). -/
theorem release_yields (hs : s.poolOwned) (hlock : s.pool.lock = .free) (hc : c < 16) (hp : ¬ s.pooled h)
    (hl : s.live h = true) (hk : ∀ u, u.poolOwned → p.Yields Q u) : (release c h p).Yields Q s := by
  refine (reaches_askFlag _ _).yields ?_
  split
  · exact (reaches_free h).yields (hk _ (hs.freeBuf hp))
  by_cases room : (s.bank c).localList.length < s.params.recycleMax
  · exact (reaches_testAndSet_won _ _ (by simpa using room)).yields (hk _ (hs.push hp hl))
  refine (reaches_testAndSet_lost _ _ (by simpa using room)).yields ?_
  have locked : (s.setLock .pool (.held c)).poolOwned := hs
  have out : ¬ (s.setLock .pool (.held c)).pooled h := hp
  refine (reaches_lock (n := .pool) c hlock).yields ((reaches_askFlag _ _).yields ?_)
  split
  · refine (reaches_set _).yields ((reaches_unlock .pool).yields ?_)
    exact pushEmptied_yields (locked.swapLists hc) (fun hp => out (State.pooled_of_swapLists hc hp))
      ((State.live_swapLists _ c h).trans hl) hk
  · exact (reaches_unlock .pool).yields ((reaches_free h).yields (hk _ (locked.freeBuf out)))

theorem leave_yields (x : Code) (hs : s.poolOwned) : (leave x).Yields State.poolOwned s :=
  (reaches_leave x).yields (yields_done x hs)

/-- `enter` passed or not, the pool is as before (44 R279). -/
theorem enter_yields (hs : s.poolOwned) (hp : ∀ u : State, u.poolOwned → p.Yields State.poolOwned u) :
    (enter p).Yields State.poolOwned s := by
  cases hb : s.dev.ctlBusy with
  | true => exact (reaches_enter_busy hb).yields (yields_done _ hs)
  | false => exact (reaches_enter hb).yields (hp _ hs)

/-- `POOL_INIT` empties lists only (41 R181). -/
theorem progPoolInit_yields (hs : s.poolOwned) : progPoolInit.Yields State.poolOwned s := by
  refine enter_yields hs fun u hu => (reaches_askFlag _ _).yields ?_
  split
  · exact leave_yields _ hu
  refine (reaches_askNat _ _).yields ?_
  obtain ⟨v, cleared, hv⟩ := reaches_forEach_inv (List.range u.params.numCpus)
    (fun c rest => Prog.set (fun s => s.setLocal c []) rest) (fun _ w => w.poolOwned)
    (fun c _ _ w hw => ⟨_, reaches_set _, hw.setLocal (c := c) (List.nil_sublist _)⟩)
    _ u hu
  refine cleared.yields ((reaches_set _).yields ((reaches_set _).yields (leave_yields _ ?_)))
  exact hv.shrink (fun p => match p with
    | none => List.nil_sublist _
    | some _ => .refl _) fun _ _ => rfl

/-- `POOL_TEARDOWN` purges the pool (41 R182). -/
theorem progPoolTeardown_yields (hs : s.poolOwned) : progPoolTeardown.Yields State.poolOwned s := by
  refine enter_yields hs fun u hu => (reaches_askFlag _ _).yields ?_
  split
  · exact leave_yields _ hu
  · refine Ends.yields (ends_poolPurge.2 (ends_set.2 (ends_leave.2 ⟨rfl, rfl⟩))) ?_
    exact hu.purged

/-- `ACQUIRE` of the host: the stack's handle is in no list (41 R185). -/
theorem progAcquire_yields (hs : s.poolOwned) (hlock : s.pool.lock = .free) (hc : c < 16) :
    (progAcquire c).Yields State.poolOwned s := by
  refine (reaches_askFlag _ _).yields ?_
  split
  · exact yields_done _ hs
  · refine acquire_yields hs hlock hc (fun u hu => yields_done _ hu) fun h u hu out => ?_
    exact (reaches_set _).yields (Ends.yields (ends_ret.2 ⟨rfl, rfl⟩) (hu.modBuf out _))

/-- What the tests of `RELEASE` come to: a code other than `OK`, no step, or a live handle of the stack (41 R189). -/
theorem releaseVerdict_cases (h : Handle) (s : State) :
    (∃ x, x ≠ .ok ∧ releaseVerdict h s = .code x) ∨ releaseVerdict h s = .refuse .unknownHandle ∨
      releaseVerdict h s = .pass ∧ s.live h = true ∧ s.owner h = some .stack := by
  unfold releaseVerdict
  split
  · exact .inl ⟨.errState, by decide, rfl⟩
  cases hb : s.buf h with
  | none => exact .inr (.inl rfl)
  | some b =>
    dsimp only
    split
    · exact .inl ⟨.errBadArg, by decide, rfl⟩
    · rename_i ok
      simp only [not_or, Bool.not_eq_false, ne_eq, Decidable.not_not] at ok
      exact .inr (.inr ⟨rfl, by simp [State.live, hb, ok.1], by simp [State.owner, hb, ok.2]⟩)

/-- `RELEASE` of the host: the handle it passes on was the stack's, so it is in no list (41 R189). -/
theorem progRelease_yields (hs : s.poolOwned) (hlock : s.pool.lock = .free) (hc : c < 16) :
    (progRelease c).Yields State.poolOwned s := by
  refine (reaches_askDWord _ _).yields ?_
  generalize (s.bank c).arg0 = h
  rcases releaseVerdict_cases h s with ⟨x, hx, hv⟩ | hv | ⟨hv, live, owner⟩
  · refine (reaches_gate_code _ _ hv).yields ?_
    rw [if_neg hx]
    exact yields_done x hs
  · exact yields_refused (x := .unknownHandle) (by simp [hv])
  · have out := hs.not_pooled_of_owner owner (by rintro (_ | d) <;> simp [listOwner])
    have held : ¬ (s.setOwner h (.held c)).pooled h := fun hp => out (State.pooled_modBuf.1 hp)
    exact (reaches_gate_pass _ _ hv).yields (release_yields (hs.modBuf out _) hlock hc held
      ((State.live_setOwner _ _ _ _).trans live) fun u hu => yields_done _ hu)

end Prog

/-! ### The obligations -/

/-- Settles O57: the bounds by the step lemma, the ownership by running each operation of the pool. -/
theorem stepKeepsPoolBounds : Obligations.StepKeepsPoolBounds := by
  refine ⟨fun s t hs h => ?_, fun ctx i s t hc hi hlock hs he => ?_⟩
  · exact step_keeps (I := fun u : State => u.poolBounded ∧ u.params = s.params)
      (fun _ _ ⟨bounded, params⟩ hu => ⟨hu.poolBounded bounded, hu.params_eq.trans params⟩) ⟨hs, rfl⟩ h
  · refine exec_of_yields ?_ (fun u r hu => hu.finish _ r) he
    simp only [List.mem_cons, List.not_mem_nil, or_false] at hi
    rcases hi with rfl | rfl | rfl | rfl
    · exact Prog.progPoolInit_yields hs
    · exact Prog.progPoolTeardown_yields hs
    · exact Prog.progAcquire_yields hs hlock hc
    · exact Prog.progRelease_yields hs hlock hc

/-- Settles O58, by the step lemma: the coalescer's counters stay in range under every atomic update. -/
theorem stepKeepsCoalescerRanges : Obligations.StepKeepsCoalescerRanges :=
  fun _ _ hs h => step_keeps (fun _ _ hs hu => hu.coalescerBounded hs) hs h

/-- Settles O59, by the step lemma: the table stays in order under every atomic update. -/
theorem stepKeepsBufferTable : Obligations.StepKeepsBufferTable :=
  fun _ _ hs h => step_keeps (fun _ _ hs hu => hu.tableSorted hs) hs h

/-- Settles O6: every bank and queue is in its reset state, with empty lists and counters 0. -/
theorem resetInvariants : Obligations.ResetInvariants :=
  ⟨wf_reset, poolBounded_reset, coalescerBounded_reset, List.Pairwise.nil⟩

end Sys2Proof.Machine

/-! PROOFS. The canonical form of DMA memory under every step (20 R80; log 7). -/

namespace Sys2Proof.Machine

/-- Every atomic update keeps memory in its canonical form: the one update that writes it writes bytes inside the
address space (20 R80). -/
theorem Update.memory_wf {s t : State} (h : Update s t) (hs : Memory.wf s.mem) : Memory.wf t.mem := by
  cases h with
  | memory a bs inside => exact wf_writeBytes bs hs inside
  | coalescer k => cases k <;> exact hs
  | _ => exact hs

/-- Settles O56, by the step lemma: memory stays in its canonical form under every atomic update. -/
theorem stepKeepsMemoryForm : Obligations.StepKeepsMemoryForm :=
  fun _ _ hs h => step_keeps (I := fun u => Memory.wf u.mem) (fun _ _ hs hu => hu.memory_wf hs) hs h

end Sys2Proof.Machine

/-! SUPPORT and PROOFS. What `SUBMIT` and `SUBMIT_SEG` come to other than `OK` (spec 20 R109; 42 R203 to R205, R212,
R215, R217): their tests, which both share, a queue without space, and a segmentation that is undone. -/

namespace Sys2Proof.Machine

variable {s : State} {c q : Nat} {h : Handle} {b : Buffer}

/-! ### The tests of both submits, in their order -/

/-- A packet is a submit's in progress exactly where its owner says so (10 R32; log 43). -/
theorem inSubmit_eq_false_iff {o : Owner} : inSubmit o = false ↔ ∀ c, o ≠ .submitted c := by
  cases o <;> simp [inSubmit]

/-- An operand out of its range comes before every test of the packet (42 R203, R215). -/
theorem submitVerdict_outOfRange : submitVerdict false q h s = .code .errBadArg := rfl

/-- A packet that is not live, or neither the stack's nor a submit's in progress (42 R203). -/
theorem submitVerdict_notSubmittable (hb : s.buf h = some b)
    (bad : b.live = false ∨ (b.owner ≠ .stack ∧ ∀ c, b.owner ≠ .submitted c)) :
    submitVerdict true q h s = .code .errBadArg := by
  rw [← inSubmit_eq_false_iff] at bad
  simp [submitVerdict, hb, bad]

/-- A packet that no test on the packet itself turns away meets the test of the queue next (20 R109, 42 R203). -/
theorem submitVerdict_submittable (hb : s.buf h = some b) (live : b.live = true)
    (owner : b.owner = .stack ∨ ∃ c, b.owner = .submitted c) :
    submitVerdict true q h s =
      if (s.tx q).phase ≠ .readyForWork then .code .errState
      else if s.dev.devState ≠ .up then .code .busy
      else if b.owner ≠ .stack then .code .errBadArg
      else if wellFormedPacket b.info then .pass
      else .refuse .malformedPacket := by
  have submittable : ¬ (b.live = false ∨ (b.owner ≠ .stack ∧ inSubmit b.owner = false)) := by
    rcases owner with stack | ⟨c, submitted⟩
    · simp [live, stack]
    · simp [live, submitted, inSubmit]
  simp only [submitVerdict, hb, Bool.not_true, Bool.false_eq_true, if_false, if_neg submittable]

/-- A packet that is not complete, where every other test passes (42 R202; log 29). -/
theorem submitVerdict_malformed (hb : s.buf h = some b) (live : b.live = true) (owner : b.owner = .stack)
    (ready : (s.tx q).phase = .readyForWork) (up : s.dev.devState = .up) (malformed : wellFormedPacket b.info = false) :
    submitVerdict true q h s = .refuse .malformedPacket := by
  rw [submitVerdict_submittable hb live (.inl owner), if_neg (not_not_intro ready), if_neg (not_not_intro up),
    if_neg (not_not_intro owner), if_neg (by simp [malformed])]

/-- What both submits answer a packet that a test turns away, in the order of the tests (20 R109; 42 R203, R212, R215;
log 43): `o` is the outcome of the operation, which such a test decides. -/
theorem turnedAway_by_tests {o : Host.Outcome State Fault Refusal} (hb : s.buf h = some b)
    (decided : ∀ v, submitVerdict true q h s = .code v → v ≠ .ok → o = .next (s.finish c (Result.only v))) :
    ((b.live = false ∨ (b.owner ≠ .stack ∧ ∀ c, b.owner ≠ .submitted c)) →
      o = .next (s.finish c (Result.only .errBadArg))) ∧
    (b.live = true → (b.owner = .stack ∨ ∃ c, b.owner = .submitted c) →
      ((s.tx q).phase ≠ .readyForWork → o = .next (s.finish c (Result.only .errState))) ∧
      ((s.tx q).phase = .readyForWork → s.dev.devState ≠ .up → o = .next (s.finish c (Result.only .busy))) ∧
      ((s.tx q).phase = .readyForWork → s.dev.devState = .up → b.owner ≠ .stack →
        o = .next (s.finish c (Result.only .errBadArg)))) := by
  refine ⟨fun bad => decided _ (submitVerdict_notSubmittable hb bad) (by decide), fun live owner => ?_⟩
  have tests := submitVerdict_submittable (q := q) hb live owner
  refine ⟨fun busy => ?_, fun ready down => ?_, fun ready up inProgress => ?_⟩
  · exact decided _ (by rw [tests, if_pos busy]) (by decide)
  · exact decided _ (by rw [tests, if_neg (not_not_intro ready), if_pos down]) (by decide)
  · exact decided _ (by
      rw [tests, if_neg (not_not_intro ready), if_neg (not_not_intro up), if_pos inProgress]) (by decide)

/-- The range test of `SUBMIT_SEG` on its segment size (42 R215; 30 R128). -/
theorem isSome_segmentSize {a : DWord} : (segmentSize a).isSome = true ↔ 1 ≤ a.toNat ∧ a.toNat ≤ 65535 := by
  rw [segmentSize, low16]
  split
  · rename_i narrow
    have most : a.toNat ≤ 65535 := Nat.le_of_lt_succ narrow
    simp [Option.isSome_filter, most, Nat.pos_iff_ne_zero, Nat.one_le_iff_ne_zero]
  · rename_i wide
    have most : ¬ a.toNat ≤ 65535 := fun most => wide (Nat.lt_succ_of_le most)
    simp [most]

/-- A queue that exists is one of the 8 register blocks (log 9). -/
theorem State.lt_of_hasQueue_tx (hq : s.hasQueue .tx q = true) : q < 8 := by
  have lt : q < min 8 s.txCountField := of_decide_eq_true hq
  exact Nat.lt_of_lt_of_le lt (Nat.min_le_left _ _)

/-! ### The gate of both submits -/

section
variable {ctx qi : BitVec 8}

/-- `SUBMIT` turned away by a test changes nothing but its result (42 R203). -/
theorem exec_submit_of_code {v : Code}
    (hv : submitVerdict (s.hasQueue .tx qi.toNat) qi.toNat (s.bank ctx.toNat).arg0 s = .code v) (notOk : v ≠ .ok) :
    exec (.submit ctx qi) s = .next (s.finish ctx.toNat (Result.only v)) := by
  rw [exec_eq_execute]
  refine execute_of_ends ?_
  simp only [progOf, progSubmit, Prog.ends_askDWord]
  rw [Prog.ends_submitGate_code hv]
  simp [notOk]

/-- `SUBMIT` whose tests come to no step (70 R413). -/
theorem exec_submit_of_refuse {x : Refusal}
    (hv : submitVerdict (s.hasQueue .tx qi.toNat) qi.toNat (s.bank ctx.toNat).arg0 s = .refuse x) :
    exec (.submit ctx qi) s = .refused x := by
  have gate : (progSubmit ctx.toNat qi.toNat).Reaches s _ s := Prog.reaches_askDWord _ _
  rw [exec_eq_execute]
  exact execute_of_refused gate (by simp [hv])

/-- The range test of `SUBMIT_SEG`: its queue and its segment size (42 R215). -/
def State.segInRange (s : State) (c q : Nat) : Bool := s.hasQueue .tx q && (segmentSize (s.bank c).arg1).isSome

theorem State.segInRange_iff : s.segInRange c q = true ↔
    s.hasQueue .tx q = true ∧ 1 ≤ (s.bank c).arg1.toNat ∧ (s.bank c).arg1.toNat ≤ 65535 := by
  simp [State.segInRange, isSome_segmentSize]

theorem State.segInRange_eq_false
    (out : s.hasQueue .tx q = false ∨ (s.bank c).arg1.toNat = 0 ∨ 65535 < (s.bank c).arg1.toNat) :
    s.segInRange c q = false := by
  rw [Bool.eq_false_iff, ne_eq, State.segInRange_iff]
  rintro ⟨hq, least, most⟩
  rcases out with noQueue | zero | large
  · simp [hq] at noQueue
  · omega
  · omega

/-- `SUBMIT_SEG` turned away by a test changes nothing but its result (42 R215). -/
theorem exec_submitSeg_of_code {v : Code}
    (hv : submitVerdict (s.segInRange ctx.toNat qi.toNat) qi.toNat (s.bank ctx.toNat).arg0 s = .code v)
    (notOk : v ≠ .ok) : exec (.submitSeg ctx qi) s = .next (s.finish ctx.toNat (Result.only v)) := by
  rw [exec_eq_execute]
  refine execute_of_ends ?_
  simp only [progOf, progSubmitSeg, Prog.ends_askDWord]
  rw [Prog.ends_submitGate_code hv]
  simp [notOk]

/-- `SUBMIT_SEG` whose tests come to no step (70 R413). -/
theorem exec_submitSeg_of_refuse {x : Refusal}
    (hv : submitVerdict (s.segInRange ctx.toNat qi.toNat) qi.toNat (s.bank ctx.toNat).arg0 s = .refuse x) :
    exec (.submitSeg ctx qi) s = .refused x := by
  have gate : (progSubmitSeg ctx.toNat qi.toNat).Reaches s _ s :=
    (Prog.reaches_askDWord _ _).trans (Prog.reaches_askDWord _ _)
  rw [State.segInRange] at hv
  rw [exec_eq_execute]
  exact execute_of_refused gate (by simp [hv])

end

/-- The gate of both submits passed: the operation goes on and holds the packet (42 R203, R215; 10 R32). -/
theorem reaches_submitGate_pass {f : State → Bool} {k : Code → Prog} (pass : submitVerdict (f s) q h s = .pass) :
    (submitGate c f q h k).Reaches s (k .ok) (s.takePacket c q h) :=
  Prog.reaches_gate_pass (fun s => s.takePacket c q h) k pass

/-! ### A packet taken and given back -/

/-- A change of a TX queue depends on its value at that queue alone. -/
theorem State.modTx_congr {f g : TxQueue → TxQueue} (e : f (s.tx q) = g (s.tx q)) : s.modTx q f = s.modTx q g := by
  simp only [State.modTx, e]

/-- The lock of a queue taken to mark it stopped, and given back (42 R204). -/
theorem State.setLock_stopQueue_setLock (c : Nat) (hq : q < 8) (free : (s.tx q).lock = .free) :
    ((s.setLock (.tx q) (.held c)).stopQueue q).setLock (.tx q) .free = s.stopQueue q := by
  simp only [State.setLock, State.stopQueue, State.modTx_modTx _ _ _ _ hq]
  exact State.modTx_congr (by simp [← free])

/-- The queue marked stopped where `stop` says so (42 R204). -/
def State.stopIf (s : State) (stop : Bool) (q : Nat) : State :=
  s.modTx q fun t => { t with stopped := stop || t.stopped }

theorem State.stopIf_true : s.stopIf true q = s.stopQueue q := rfl

theorem State.stopIf_false : s.stopIf false q = s := State.modTx_self _ _ _ rfl

theorem State.tx_stopIf_same {stop : Bool} (hq : q < 8) :
    (s.stopIf stop q).tx q = { s.tx q with stopped := stop || (s.tx q).stopped } :=
  s.tx_modTx_same q (fun t => { t with stopped := stop || t.stopped }) hq

theorem State.tx_stopIf_other {stop : Bool} {j : Nat} (ne : j ≠ q) : (s.stopIf stop q).tx j = s.tx j :=
  s.tx_modTx_other (fun t => { t with stopped := stop || t.stopped }) ne.symm

/-- A ready queue that a submit takes through its space check is ready again, with its stopped flag the only field that
can have changed (42 R203, R204). -/
theorem State.stopIf_in_spaceCheck (stop : Bool) (hq : q < 8) (ready : (s.tx q).phase = .readyForWork) :
    ((s.setPhase q .spaceCheck).stopIf stop q).setPhase q .readyForWork = s.stopIf stop q := by
  simp only [State.setPhase, State.stopIf, State.modTx_modTx _ _ _ _ hq]
  exact State.modTx_congr (by simp [← ready])

/-- The queue of a submit that holds its packet (42 R203). -/
theorem State.tx_takePacket (c : Nat) (hq : q < 8) :
    (s.takePacket c q h).tx q = { s.tx q with phase := .spaceCheck } :=
  s.tx_modTx_same q (fun t => { t with phase := .spaceCheck }) hq

/-- A packet of the stack taken from a ready queue and given back leaves the queue's stopped flag alone changed
(42 R203, R215; log 43). -/
theorem State.returnPacket_takePacket (c : Nat) (stop : Bool) (hq : q < 8) (ready : (s.tx q).phase = .readyForWork)
    (ho : s.owner h = some .stack) : ((s.takePacket c q h).stopIf stop q).returnPacket q h = s.stopIf stop q := by
  calc ((s.takePacket c q h).stopIf stop q).returnPacket q h
      = (((s.setPhase q .spaceCheck).stopIf stop q).setPhase q .readyForWork).setBufs
          (changeBuf (changeBuf s.bufs h fun b => { b with owner := .submitted c }) h
            fun b => { b with owner := .stack }) := rfl
    _ = s.stopIf stop q := by
      rw [State.stopIf_in_spaceCheck stop hq ready, Prog.changeBuf_takeBack ho]
      rfl

/-! ### `SUBMIT` -/

/-- `SUBMIT` of a packet that passes the tests and does not fit marks the queue stopped, and nothing else changes
(42 R204, R205). -/
theorem ends_progSubmit_full (hq : s.hasQueue .tx q = true) (hb : s.buf (s.bank c).arg0 = some b)
    (live : b.live = true) (owner : b.owner = .stack) (ready : (s.tx q).phase = .readyForWork)
    (up : s.dev.devState = .up) (complete : wellFormedPacket b.info = true) (free : (s.tx q).lock = .free)
    (full : (s.tx q).free < requiredOf b.info) :
    (progSubmit c q).Ends s (Result.only .busy) (s.modTx q fun y => { y with stopped := true }) := by
  have lt := State.lt_of_hasQueue_tx hq
  have pass : submitVerdict (s.hasQueue .tx q) q (s.bank c).arg0 s = .pass :=
    Prog.submitVerdict_pass.2 ⟨hq, b, hb, live, owner, ready, up, complete⟩
  have taken := State.tx_takePacket (s := s) (h := (s.bank c).arg0) c lt
  have need : s.required (s.bank c).arg0 = requiredOf b.info := by simp [State.required, hb]
  rw [progSubmit, Prog.ends_askDWord, Prog.ends_submitGate_pass pass, if_neg (by simp), Prog.ends_askNat,
    Prog.ends_lock (by rw [State.lockOf, taken]; exact free), Prog.ends_askFlag, if_pos, Prog.ends_set,
    Prog.ends_unlock, State.setLock_stopQueue_setLock c lt (by rw [taken]; exact free), ← State.stopIf_true,
    Prog.ends_set, Prog.ends_done]
  · exact ⟨State.returnPacket_takePacket c true lt ready (by simp [State.owner, hb, owner]), rfl⟩
  · rw [Prog.required_takePacket, need]
    simp only [State.setLock, State.tx_modTx_same _ _ _ lt, taken]
    exact decide_eq_true full

/-- Settles O29: the tests of `SUBMIT` one by one, and then a queue without space. -/
theorem submitTurnedAway : Obligations.SubmitTurnedAway := by
  intro ctx q s h x
  refine ⟨fun noQueue => ?_, fun hq unknown => ?_, fun b hq hb => ?_⟩
  · exact exec_submit_of_code (by rw [noQueue, submitVerdict_outOfRange]) (by decide)
  · exact exec_submit_of_refuse (by rw [hq]; exact Prog.submitVerdict_unknown unknown)
  obtain ⟨notSubmittable, submittable⟩ := turnedAway_by_tests (q := q.toNat) (c := ctx.toNat) hb fun v hv =>
    exec_submit_of_code (ctx := ctx) (by rw [hq]; exact hv)
  refine ⟨notSubmittable, submittable, fun live owner => ⟨fun ready up malformed => ?_,
    fun ready up complete free full => ?_⟩⟩
  · exact exec_submit_of_refuse (by rw [hq]; exact submitVerdict_malformed hb live owner ready up malformed)
  · rw [exec_eq_execute]
    exact execute_of_ends (ends_progSubmit_full hq hb live owner ready up complete free full)

/-! ### The segments of a `SUBMIT_SEG` in the buffer table -/

/-- The buffer table with the segments as entries of their own (42 R216). -/
def segmentsAdded (t : List (Handle × Buffer)) (c : Nat) (segs : List (Handle × BufInfo)) : List (Handle × Buffer) :=
  segs.foldl (fun t e => insertBuf t e.1 { live := true, info := e.2, owner := .held c, mapped := .none }) t

/-- Adding segments changes the buffer table alone. -/
theorem State.addSegments_eq (s : State) (c : Nat) (segs : List (Handle × BufInfo)) :
    s.addSegments c segs = s.setBufs (segmentsAdded s.bufs c segs) := by
  induction segs generalizing s with
  | nil => rfl
  | cons e segs ih =>
    simp only [State.addSegments, List.foldl_cons] at ih ⊢
    rw [ih]
    rfl

/-- A handle that is no segment's keeps its entry. -/
theorem State.buf_addSegments_other (s : State) (c : Nat) {segs : List (Handle × BufInfo)} {x : Handle}
    (hx : x ∉ segs.map Prod.fst) : (s.addSegments c segs).buf x = s.buf x := by
  induction segs generalizing s with
  | nil => rfl
  | cons e segs ih =>
    simp only [List.map_cons, List.mem_cons, not_or] at hx
    rw [State.addSegments, List.foldl_cons, ← State.addSegments, ih _ hx.2, State.buf_insertBuf, if_neg hx.1]

/-- The entry of a segment: live, as the collaborator built it, held by the operation (42 R216). -/
theorem State.buf_addSegments (s : State) (c : Nat) {segs : List (Handle × BufInfo)}
    (distinct : (segs.map Prod.fst).Nodup) {e : Handle × BufInfo} (he : e ∈ segs) :
    (s.addSegments c segs).buf e.1 = some { live := true, info := e.2, owner := .held c, mapped := .none } := by
  induction segs generalizing s with
  | nil => cases he
  | cons d segs ih =>
    obtain ⟨hd, distinct⟩ := List.nodup_cons.1 distinct
    rw [State.addSegments, List.foldl_cons, ← State.addSegments]
    rcases List.mem_cons.1 he with rfl | he
    · rw [State.buf_addSegments_other _ _ hd, State.buf_insertBuf, if_pos rfl]
    · exact ih _ distinct he

/-- The descriptors that the segments need together (42 R217). -/
theorem State.required_addSegments (s : State) (c : Nat) {segs : List (Handle × BufInfo)}
    (distinct : (segs.map Prod.fst).Nodup) :
    ((segs.map Prod.fst).map (s.addSegments c segs).required) = segs.map fun e => requiredOf e.2 := by
  rw [List.map_map]
  refine List.map_congr_left fun e he => ?_
  simp [State.required, State.buf_addSegments s c distinct he]

/-- Freeing distinct handles frees each of them once (45 R333). -/
theorem State.buf_freeAll (s : State) {hs : List Handle} {x : Handle} (distinct : hs.Nodup) (hx : x ∈ hs) :
    (hs.foldl State.freeBuf s).buf x = (s.freeBuf x).buf x := by
  induction hs generalizing s with
  | nil => cases hx
  | cons y hs ih =>
    obtain ⟨hy, distinct⟩ := List.nodup_cons.1 distinct
    rw [List.foldl_cons]
    rcases List.mem_cons.1 hx with rfl | hx
    · exact State.buf_freeAll_other _ _ _ hy
    · have ne : x ≠ y := fun eq => hy (eq ▸ hx)
      rw [ih _ distinct hx]
      simp only [State.freeBuf, State.buf_modBuf_same, State.buf_modBuf_other s _ ne]

/-! ### The collaborator's contract while a packet is held -/

/-- What an entry is asked that its change leaves, is answered by the table as before. -/
theorem all_changeBuf (t : List (Handle × Buffer)) (h : Handle) {f : Buffer → Buffer} {p : Buffer → Bool}
    (hf : ∀ b, p (f b) = p b) : ((changeBuf t h f).all fun e => p e.2) = t.all fun e => p e.2 := by
  induction t with
  | nil => rfl
  | cons e t ih =>
    simp only [changeBuf]
    split
    · simp [hf]
    · simp [ih]

/-- Holding a packet takes no memory (45 R331, R332). -/
theorem State.freshRange_takePacket (a n : Nat) : (s.takePacket c q h).freshRange a n = s.freshRange a n := by
  have same := all_changeBuf s.bufs h (f := fun b => { b with owner := .submitted c })
    (p := fun b => !b.live || disjoint a n b.info.phys.toNat b.info.capacity) fun _ => rfl
  simp only [State.freshRange]
  exact congrArg (_ && ·) same

/-- The collaborator's contract does not depend on the packet being held (42 R216). -/
theorem segmentsOk_takePacket (segs : List (Handle × BufInfo)) :
    segmentsOk (s.takePacket c q h) segs = segmentsOk s segs := by
  have live : ∀ x, (s.takePacket c q h).live x = s.live x := fun x =>
    State.live_setOwner (s.setPhase q .spaceCheck) h x _
  simp only [segmentsOk, live, State.freshRange_takePacket]

/-- Segments inside the contract are distinct handles that were not live (42 R216). -/
theorem segmentsOk_fresh {segs : List (Handle × BufInfo)} (ok : segmentsOk s segs = true) :
    (segs.map Prod.fst).Nodup ∧ ∀ x ∈ segs.map Prod.fst, s.live x = false := by
  simp only [segmentsOk, Bool.and_eq_true, decide_eq_true_eq, List.all_eq_true, Bool.not_eq_true'] at ok
  obtain ⟨⟨distinct, each⟩, -⟩ := ok
  refine ⟨distinct, fun x hx => ?_⟩
  obtain ⟨e, he, rfl⟩ := List.mem_map.1 hx
  exact (each e he).1.1.1

/-- The environment holds no answer of the collaborator (log 4). -/
theorem ends_segment_nil {k : List Handle × Bool → Prog} {r : Result} {t : State} (he : s.env.segAnswers = []) :
    (segment c k).Ends s r t ↔ (k ([], false)).Ends s r t :=
  Prog.Reaches.ends_iff (Prog.reaches_event (a := .segments [] false) (by simp [he]))

/-! ### A segmentation that is undone -/

/-- After the collaborator's answer: the packet held, the segments in the table, the answer used up (42 R216). -/
def State.segmented (s : State) (c q : Nat) (h : Handle) (segs : List (Handle × BufInfo))
    (rest : List SegmentAnswer) : State :=
  ((s.takePacket c q h).modEnv fun e => { e with segAnswers := rest }).addSegments c segs

/-- A segmentation undone: the queue marked stopped where `stop` says so, every segment freed, the packet back with the
stack (42 R215, R217). -/
def State.unsegmented (s : State) (c q : Nat) (h : Handle) (segs : List (Handle × BufInfo))
    (rest : List SegmentAnswer) (stop : Bool) : State :=
  ((segs.map Prod.fst).foldl State.freeBuf ((s.segmented c q h segs rest).stopIf stop q)).returnPacket q h

section
variable {segs : List (Handle × BufInfo)} {rest : List SegmentAnswer} {stop : Bool}

/-- A segmentation undone leaves the buffer table, the used answer and the stopped flag changed, and nothing else. -/
theorem State.unsegmented_eq (hq : q < 8) (ready : (s.tx q).phase = .readyForWork) :
    s.unsegmented c q h segs rest stop = ((s.stopIf stop q).modEnv fun e => { e with segAnswers := rest }).setBufs
      (s.unsegmented c q h segs rest stop).bufs := by
  rw [← State.stopIf_in_spaceCheck stop hq ready, State.unsegmented, State.segmented, State.addSegments_eq,
    State.freeAll_eq]
  rfl

/-- The queue after the collaborator's answer is as the test left it. -/
theorem State.tx_segmented (hq : q < 8) :
    (s.segmented c q h segs rest).tx q = { s.tx q with phase := .spaceCheck } := by
  rw [State.segmented, State.addSegments_eq]
  exact State.tx_takePacket (h := h) c hq

/-- A handle that is no segment's has its entry back: the packet is the stack's again (42 R215; log 43). -/
theorem State.buf_unsegmented_other (ho : s.owner h = some .stack) {y : Handle} (hy : y ∉ segs.map Prod.fst) :
    (s.unsegmented c q h segs rest stop).buf y = s.buf y := by
  have kept : (((segs.map Prod.fst).foldl State.freeBuf ((s.segmented c q h segs rest).stopIf stop q)).setPhase q
      .readyForWork).buf y = (s.takePacket c q h).buf y :=
    (State.buf_freeAll_other _ _ _ hy).trans (State.buf_addSegments_other _ _ hy)
  rw [State.unsegmented, State.returnPacket, State.setOwner, State.buf_modBuf, kept, Prog.buf_takePacket]
  split
  · rename_i eq
    subst eq
    cases hb : s.buf y with
    | none => rfl
    | some b =>
      have stack : b.owner = .stack := by simpa [State.owner, hb] using ho
      simp [← stack]
  · rfl

/-- A segment undone: freed, and one reference less (42 R217; 45 R333). -/
theorem State.buf_unsegmented (distinct : (segs.map Prod.fst).Nodup) {e : Handle × BufInfo} (he : e ∈ segs)
    (ne : e.1 ≠ h) :
    (s.unsegmented c q h segs rest stop).buf e.1 =
      some { live := decide (e.2.refs - 1 ≠ 0), info := { e.2 with refs := e.2.refs - 1 }, owner := .freed,
             mapped := .none } := by
  have entry := State.buf_addSegments ((s.takePacket c q h).modEnv fun e => { e with segAnswers := rest }) c distinct he
  have freed := State.buf_freeAll ((s.segmented c q h segs rest).stopIf stop q) distinct
    (List.mem_map_of_mem (f := Prod.fst) he)
  rw [State.unsegmented, State.returnPacket, State.setOwner, State.buf_modBuf_other _ _ ne]
  refine freed.trans ?_
  rw [State.freeBuf, State.buf_modBuf_same, State.stopIf, State.buf_modTx, State.segmented, entry]
  simp

end

/-! ### `SUBMIT_SEG` -/

section
variable {segs : List (Handle × BufInfo)} {rest : List SegmentAnswer}
  (pass : submitVerdict (s.segInRange c q) q (s.bank c).arg0 s = .pass)

include pass

/-- A segmentation that did not finish is undone (42 R215). -/
theorem ends_progSubmitSeg_incomplete (answer : s.env.segAnswers = ⟨segs, false⟩ :: rest)
    (ok : segmentsOk s segs = true) :
    (progSubmitSeg c q).Ends s (Result.only .errSegFailed)
      (s.unsegmented c q (s.bank c).arg0 segs rest false) := by
  have held : segmentsOk (s.takePacket c q (s.bank c).arg0) segs = true := (segmentsOk_takePacket segs).trans ok
  rw [State.segInRange] at pass
  rw [progSubmitSeg, Prog.ends_askDWord, Prog.ends_askDWord, Prog.ends_submitGate_pass pass, if_neg (by simp),
    Prog.ends_segment (s := s.takePacket c q (s.bank c).arg0) (a := ⟨segs, false⟩) answer held, if_pos (by rfl),
    Prog.ends_forEach_free, Prog.ends_set, Prog.ends_done, State.unsegmented, State.stopIf_false]
  exact ⟨rfl, rfl⟩

/-- Segments that do not all fit are undone, and the queue is marked stopped (42 R204, R217). -/
theorem ends_progSubmitSeg_full (hq : q < 8)
    (answer : s.env.segAnswers = ⟨segs, true⟩ :: rest) (ok : segmentsOk s segs = true)
    (free : (s.tx q).lock = .free) (full : (s.tx q).free < (segs.map fun e => requiredOf e.2).sum) :
    (progSubmitSeg c q).Ends s (Result.only .busy) (s.unsegmented c q (s.bank c).arg0 segs rest true) := by
  have distinct := (segmentsOk_fresh ok).1
  have queue := State.tx_segmented (s := s) (c := c) (h := (s.bank c).arg0) (segs := segs) (rest := rest) hq
  have lockFree : ((s.segmented c q (s.bank c).arg0 segs rest).tx q).lock = .free := by rw [queue]; exact free
  have held : segmentsOk (s.takePacket c q (s.bank c).arg0) segs = true := (segmentsOk_takePacket segs).trans ok
  rw [State.segInRange] at pass
  rw [progSubmitSeg, Prog.ends_askDWord, Prog.ends_askDWord, Prog.ends_submitGate_pass pass, if_neg (by simp),
    Prog.ends_segment (s := s.takePacket c q (s.bank c).arg0) (a := ⟨segs, true⟩) answer held, if_neg (by simp)]
  rw [← State.segmented, Prog.ends_askNat, Prog.ends_lock (n := .tx q) lockFree, Prog.ends_askFlag, if_pos,
    Prog.ends_set, Prog.ends_unlock, State.setLock_stopQueue_setLock c hq lockFree, ← State.stopIf_true,
    Prog.ends_forEach_free, Prog.ends_set, Prog.ends_done]
  · exact ⟨rfl, rfl⟩
  · rw [State.segmented, State.required_addSegments _ _ distinct, ← State.segmented]
    simp only [State.setLock, State.tx_modTx_same _ _ _ hq, queue]
    exact decide_eq_true full

/-- A segmentation that did not finish, or whose segments do not all fit, is undone (42 R215, R217). -/
theorem ends_progSubmitSeg_undone {a : SegmentAnswer} (hq : q < 8) (answer : s.env.segAnswers = a :: rest)
    (ok : segmentsOk s a.segs = true) (failed : a.complete = false ∨
      ((s.tx q).lock = .free ∧ (s.tx q).free < (a.segs.map fun e => requiredOf e.2).sum)) :
    (progSubmitSeg c q).Ends s (Result.only (if a.complete then .busy else .errSegFailed))
      (s.unsegmented c q (s.bank c).arg0 a.segs rest a.complete) := by
  obtain ⟨segs, finished⟩ := a
  cases finished with
  | false => exact ends_progSubmitSeg_incomplete pass answer ok
  | true =>
    obtain ⟨free, full⟩ : (s.tx q).lock = .free ∧ (s.tx q).free < (segs.map fun e => requiredOf e.2).sum := by
      simpa using failed
    exact ends_progSubmitSeg_full pass hq answer ok free full

/-- Without an answer of the collaborator nothing is built, and the packet is given back (42 R215; log 4). -/
theorem ends_progSubmitSeg_unanswered (hq : q < 8)
    (ready : (s.tx q).phase = .readyForWork) (ho : s.owner (s.bank c).arg0 = some .stack)
    (answer : s.env.segAnswers = []) : (progSubmitSeg c q).Ends s (Result.only .errSegFailed) s := by
  have back := State.returnPacket_takePacket c false hq ready ho
  rw [State.stopIf_false, State.stopIf_false] at back
  rw [State.segInRange] at pass
  rw [progSubmitSeg, Prog.ends_askDWord, Prog.ends_askDWord, Prog.ends_submitGate_pass pass, if_neg (by simp),
    ends_segment_nil (s := s.takePacket c q (s.bank c).arg0) answer, if_pos (by rfl), Prog.ends_forEach_nil,
    Prog.ends_set, Prog.ends_done]
  exact ⟨back, rfl⟩

/-- An answer outside the collaborator's contract is no step (42 R216; 70 R413; log 34). -/
theorem execute_progSubmitSeg_refused {i : Instr} {a : SegmentAnswer}
    (answer : s.env.segAnswers = a :: rest) (bad : segmentsOk s a.segs = false) :
    execute i (progSubmitSeg c q) s = .refused .transformContract := by
  rw [State.segInRange] at pass
  have asked : (progSubmitSeg c q).Reaches s _ (s.takePacket c q (s.bank c).arg0) :=
    ((Prog.reaches_askDWord _ _).trans (Prog.reaches_askDWord _ _)).trans (reaches_submitGate_pass pass)
  rw [if_neg (by simp)] at asked
  have held : (s.takePacket c q (s.bank c).arg0).env.segAnswers = a :: rest := answer
  exact execute_of_refused asked (by simp [held, segmentsOk_takePacket, bad])

end

/-- Settles O31: the tests of `SUBMIT_SEG` one by one, and then the collaborator's answer. -/
theorem submitSegAllOrNothing : Obligations.SubmitSegAllOrNothing := by
  intro ctx q s h m x
  have inRange : s.hasQueue .tx q.toNat = true → 1 ≤ m → m ≤ 65535 → s.segInRange ctx.toNat q.toNat = true :=
    fun hq least most => State.segInRange_iff.2 ⟨hq, least, most⟩
  refine ⟨fun outOfRange => ?_, fun hq least most unknown => ?_, fun b hq least most hb => ?_⟩
  · exact exec_submitSeg_of_code (by rw [State.segInRange_eq_false outOfRange, submitVerdict_outOfRange]) (by decide)
  · exact exec_submitSeg_of_refuse (by rw [inRange hq least most]; exact Prog.submitVerdict_unknown unknown)
  have range := inRange hq least most
  obtain ⟨notSubmittable, submittable⟩ := turnedAway_by_tests (q := q.toNat) (c := ctx.toNat) hb fun v hv =>
    exec_submitSeg_of_code (ctx := ctx) (by rw [range]; exact hv)
  refine ⟨notSubmittable, submittable, fun live owner ready up => ⟨fun malformed => ?_, fun complete => ?_⟩⟩
  · exact exec_submitSeg_of_refuse (by
      rw [range]
      exact submitVerdict_malformed hb live owner ready up malformed)
  have lt := State.lt_of_hasQueue_tx hq
  have stack : s.owner h = some .stack := by simp [State.owner, hb, owner]
  have pass : submitVerdict (s.segInRange ctx.toNat q.toNat) q.toNat h s = .pass :=
    Prog.submitVerdict_pass.2 ⟨range, b, hb, live, owner, ready, up, complete⟩
  refine ⟨fun unanswered => ?_, fun a rest answer => ⟨fun bad => ?_, fun ok failed => ?_⟩⟩
  · rw [exec_eq_execute]
    exact execute_of_ends (ends_progSubmitSeg_unanswered pass lt ready stack unanswered)
  · rw [exec_eq_execute]
    exact execute_progSubmitSeg_refused pass answer bad
  obtain ⟨distinct, fresh⟩ := segmentsOk_fresh ok
  have frame := State.unsegmented_eq (c := ctx.toNat) (h := h) (segs := a.segs) (rest := rest) (stop := a.complete)
    lt ready
  have packetLive : s.live h = true := by simp [State.live, hb, live]
  have other : ∀ e ∈ a.segs, e.1 ≠ h := fun e he eq => by
    simpa [eq, packetLive] using fresh e.1 (List.mem_map_of_mem he)
  have entry : ∀ e ∈ a.segs, _ := fun e he => State.buf_unsegmented (s := s) (c := ctx.toNat) (q := q.toNat)
    (rest := rest) (stop := a.complete) distinct he (other e he)
  rw [exec_eq_execute]
  refine ⟨_, execute_of_ends (ends_progSubmitSeg_undone pass lt answer ok failed), ?_, ?_, ?_, ?_, ?_, ?_, ?_⟩
  · intro y
    rw [frame]
    rfl
  · rw [frame]
    exact State.tx_stopIf_same lt
  · intro q' ne
    rw [frame]
    exact State.tx_stopIf_other ne
  · intro e he
    refine ⟨by rw [State.owner, entry e he]; rfl, fun one => ?_⟩
    rw [State.live, entry e he]
    simp [one]
  · exact fun y hy => State.buf_unsegmented_other stack hy
  · rw [frame]
    rfl
  · rw [frame]
    rfl

end Sys2Proof.Machine

/-! SUPPORT and PROOFS. The command word (spec 30 R127, R128, R140, R141): its four byte fields, what each family of
rows of the opcode map reads, and that decoding and encoding are inverse to each other. -/

namespace Sys2Proof

/-! ### A word and its four fields -/

/-- A word is its four byte fields put together again (30 R127). -/
@[simp] theorem commandWord_commandFields (w : Word) : commandWord (commandFields w) = w := by
  apply BitVec.eq_of_getLsbD_eq
  intro i hi
  simp only [commandWord, commandFields, BitVec.getLsbD_append, BitVec.getLsbD_extractLsb']
  grind

/-- Four fields are the fields of the word they make (30 R127). -/
@[simp] theorem commandFields_commandWord (f : CommandFields) : commandFields (commandWord f) = f := by
  obtain ⟨op, ctx, idx, sub⟩ := f
  simp only [commandFields, commandWord, CommandFields.mk.injEq]
  refine ⟨?_, ?_, ?_, ?_⟩ <;>
    (apply BitVec.eq_of_getLsbD_eq
     intro i hi
     simp only [BitVec.getLsbD_append, BitVec.getLsbD_extractLsb']
     grind)

/-- Two words are the same where their fields are. -/
theorem commandFields_injective {v w : Word} (h : commandFields v = commandFields w) : v = w := by
  rw [← commandWord_commandFields v, h, commandWord_commandFields]

/-- The big-endian bytes of a word put together are the word (30 R127, R130). -/
theorem decode_wordBytes (w : Word) (rest : List Byte) :
    decode (wordBytes w ++ rest) = (decodeWord w).map fun i => (i, rest) :=
  congrArg (fun v => (decodeWord v).map fun i => (i, rest)) (commandWord_commandFields w)

/-- A word holds a masked value exactly where each of its fields does. -/
theorem and_eq_iff_fields {w m v : Word} : w &&& m = v ↔
    (commandFields w).op &&& (commandFields m).op = (commandFields v).op ∧
    (commandFields w).ctx &&& (commandFields m).ctx = (commandFields v).ctx ∧
    (commandFields w).idx &&& (commandFields m).idx = (commandFields v).idx ∧
    (commandFields w).sub &&& (commandFields m).sub = (commandFields v).sub := by
  have byFields : w &&& m = v ↔ commandFields (w &&& m) = commandFields v :=
    ⟨fun h => h ▸ rfl, commandFields_injective⟩
  rw [byFields]
  simp [commandFields, BitVec.extractLsb'_and]

/-! ### The families of rows -/

/-- What the decoder makes of the fields `f` for a row whose mask requires zeros in `mask`: an operation exactly where
they are zero, and then one that is written with `f` (30 R140, R141). -/
structure ReadsRow (f mask : CommandFields) (e : Except DecodeError Instr) : Prop where
  accepts_iff : (∃ i, e = .ok i) ↔ f.idx &&& mask.idx = 0 ∧ f.sub &&& mask.sub = 0
  written : ∀ i, e = .ok i → encodeFields i = f

variable {f mask : CommandFields}

theorem ReadsRow.ok {i : Instr} (idx : f.idx &&& mask.idx = 0) (sub : f.sub &&& mask.sub = 0)
    (written : encodeFields i = f) : ReadsRow f mask (.ok i) :=
  ⟨⟨fun _ => ⟨idx, sub⟩, fun _ => ⟨i, rfl⟩⟩, fun _ h => by cases h; exact written⟩

theorem ReadsRow.error {x : DecodeError} (h : ¬ (f.idx &&& mask.idx = 0 ∧ f.sub &&& mask.sub = 0)) :
    ReadsRow f mask (.error x) :=
  ⟨⟨nofun, fun zeros => absurd zeros h⟩, nofun⟩

/-- A mask of all ones requires the whole field zero (30 R140). -/
theorem and_0xFF_eq_zero {b : BitVec 8} : b &&& 0xFF = 0 ↔ b = 0 := by
  rw [show (0xFF : BitVec 8) = BitVec.allOnes 8 from rfl, BitVec.and_allOnes]

/-- The kind bit of a modifier whose other bits are zero is the modifier (30 R128). -/
theorem bitOfKind_kindOfBit {b : BitVec 8} (h : b &&& 0xFE = 0) : bitOfKind (kindOfBit (b.getLsbD 0)) = b := by
  revert b
  decide

/-- The two modifier bits of `LINK_CHANGE`, where the other bits are zero, are the modifier (30 R128). -/
theorem linkBits_eq {b : BitVec 8} (h : b &&& 0xFC = 0) :
    ((if b.getLsbD 1 then 2 else 0) ||| (if b.getLsbD 0 then 1 else 0) : BitVec 8) = b := by
  revert b
  decide

/-- An operation without `idx` and `sub`. -/
theorem plainOp_reads {i : Instr} (written : encodeFields i = ⟨f.op, f.ctx, 0, 0⟩) :
    ReadsRow f (commandFields 0xFF00FFFF) (plainOp f i) := by
  obtain ⟨op, ctx, idx, sub⟩ := f
  rw [show commandFields 0xFF00FFFF = ⟨0xFF, 0, 0xFF, 0xFF⟩ by decide, plainOp]
  split
  · exact .error fun h => ‹idx ≠ 0› (and_0xFF_eq_zero.1 h.1)
  split
  · exact .error fun h => ‹sub ≠ 0› (and_0xFF_eq_zero.1 h.2)
  · obtain rfl : idx = 0 := Decidable.of_not_not ‹_›
    obtain rfl : sub = 0 := Decidable.of_not_not ‹_›
    exact .ok (and_0xFF_eq_zero.2 rfl) (and_0xFF_eq_zero.2 rfl) written

/-- An operation with an index and no modifier. -/
theorem indexedOp_reads {i : Instr} (written : encodeFields i = ⟨f.op, f.ctx, f.idx, 0⟩) :
    ReadsRow f (commandFields 0xFF0000FF) (indexedOp f i) := by
  rw [show commandFields 0xFF0000FF = ⟨0xFF, 0, 0, 0xFF⟩ by decide, indexedOp]
  split
  · exact .error fun h => ‹f.sub ≠ 0› (and_0xFF_eq_zero.1 h.2)
  · have sub : f.sub = 0 := Decidable.of_not_not ‹_›
    exact .ok BitVec.and_zero (and_0xFF_eq_zero.2 sub) (by rw [written, ← sub])

/-- An operation with an index and the kind bit. -/
theorem kindedOp_reads (mk : Kind → Instr)
    (written : ∀ k, encodeFields (mk k) = ⟨f.op, f.ctx, f.idx, bitOfKind k⟩) :
    ReadsRow f (commandFields 0xFF0000FE) (kindedOp f mk) := by
  rw [show commandFields 0xFF0000FE = ⟨0xFF, 0, 0, 0xFE⟩ by decide, kindedOp]
  split
  · exact .error fun h => ‹f.sub &&& 0xFE ≠ 0› h.2
  · have sub : f.sub &&& 0xFE = 0 := Decidable.of_not_not ‹_›
    exact .ok BitVec.and_zero sub (by rw [written, bitOfKind_kindOfBit sub])

/-- `LINK_CHANGE`, with its two modifier bits. -/
theorem linkOp_reads (op : f.op = 0x53) : ReadsRow f (commandFields 0xFF00FFFC) (linkOp f) := by
  rw [show commandFields 0xFF00FFFC = ⟨0xFF, 0, 0xFF, 0xFC⟩ by decide, linkOp]
  split
  · exact .error fun h => ‹f.idx ≠ 0› (and_0xFF_eq_zero.1 h.1)
  split
  · exact .error fun h => ‹f.sub &&& 0xFC ≠ 0› h.2
  · have idx : f.idx = 0 := Decidable.of_not_not ‹_›
    have sub : f.sub &&& 0xFC = 0 := Decidable.of_not_not ‹_›
    exact .ok (and_0xFF_eq_zero.2 idx) sub (by rw [encodeFields, linkBits_eq sub, ← op, ← idx])

/-! ### The opcode map -/

/-- The decoder reads fields with the `op` of an operation's row by that row (30 R140). -/
theorem decodeFields_reads {r : Instr} (op : f.op = (encodeFields r).op) :
    ReadsRow f (commandFields (opcodeRow r).2) (decodeFields f) := by
  obtain ⟨_, ctx, idx, sub⟩ := f
  subst op
  cases r with
  | nop | poolInit | poolTeardown | acquire | release | start | halt | changeMtu | resetTask | readStats =>
    exact plainOp_reads rfl
  | submit | submitSeg | irq | groupPoll | maskAll | unmaskDefault | txTimeout | armRx | rxPoll | txPoll =>
    exact indexedOp_reads rfl
  | setCoalesce => exact kindedOp_reads (.setCoalesce ctx · idx) fun _ => rfl
  | ringInit => exact kindedOp_reads (.ringInit ctx · idx) fun _ => rfl
  | slotReady => exact kindedOp_reads (.slotReady ctx · idx) fun _ => rfl
  | ringNext => exact kindedOp_reads (.ringNext ctx · idx) fun _ => rfl
  | linkChange => exact linkOp_reads rfl

/-- Fields whose `op` no row has are no operation (30 R141). -/
theorem decodeFields_unlisted (f : CommandFields) (h : ∀ r ∈ opcodeRowOwners, f.op ≠ (encodeFields r).op) :
    decodeFields f = .error (.unlistedOp f.op) := by
  simp only [opcodeRowOwners, List.forall_mem_cons, encodeFields] at h
  simp only [decodeFields, h, if_false]

/-- Fields that decode to an operation are the fields it is written with (30 R127, R140). -/
theorem encodeFields_of_decodeFields {i : Instr} (h : decodeFields f = .ok i) : encodeFields i = f := by
  by_cases listed : ∃ r ∈ opcodeRowOwners, f.op = (encodeFields r).op
  · obtain ⟨r, -, op⟩ := listed
    exact (decodeFields_reads op).written i h
  · rw [decodeFields_unlisted f fun r hr op => listed ⟨r, hr, op⟩] at h
    cases h

/-- The fields an operation is written with decode to it, by the family of its row (30 R127, R128, R140). -/
theorem decodeFields_encodeFields (i : Instr) : decodeFields (encodeFields i) = .ok i := by
  cases i with
  | setCoalesce c k q => exact Laws.EncodeRoundTrip.setCoalesce c k q
  | linkChange c up full => exact Laws.EncodeRoundTrip.linkChange c up full
  | ringInit c k q => exact Laws.EncodeRoundTrip.ringInit c k q
  | slotReady c k q => exact Laws.EncodeRoundTrip.slotReady c k q
  | ringNext c k q => exact Laws.EncodeRoundTrip.ringNext c k q
  | _ => rfl

/-- A word decodes to an operation exactly where its fields are those the operation is written with. -/
theorem decodeWord_eq_ok_iff {w : Word} {i : Instr} : decodeWord w = .ok i ↔ encodeFields i = commandFields w := by
  refine ⟨encodeFields_of_decodeFields, fun h => ?_⟩
  rw [decodeWord, ← h, decodeFields_encodeFields]

/-- Every operation has the `op` and the row of one of the operations that stand for the rows (30 R140). -/
theorem exists_rowOwner (i : Instr) :
    ∃ r ∈ opcodeRowOwners, opcodeRow r = opcodeRow i ∧ (encodeFields r).op = (encodeFields i).op := by
  have listed : (opcodeRow i, (encodeFields i).op) ∈
      opcodeRowOwners.map fun r => (opcodeRow r, (encodeFields r).op) := by
    cases i <;> exact List.mem_of_elem_eq_true rfl
  obtain ⟨r, hr, h⟩ := List.mem_map.1 listed
  exact ⟨r, hr, (Prod.mk.inj h).1, (Prod.mk.inj h).2⟩

/-- Every operation has a row of the opcode map (30 R140). -/
theorem opcodeRow_mem (i : Instr) : opcodeRow i ∈ opcodeTable := by
  obtain ⟨r, hr, row, -⟩ := exists_rowOwner i
  exact row ▸ List.mem_map_of_mem hr

/-- A row of the opcode map: `match` is `op` with every other field zero, the mask takes all of `op` and none of `ctx`
(30 R140). -/
theorem opcodeRow_fields (i : Instr) : commandFields (opcodeRow i).1 = ⟨(encodeFields i).op, 0, 0, 0⟩ ∧
    (commandFields (opcodeRow i).2).op = BitVec.allOnes 8 ∧ (commandFields (opcodeRow i).2).ctx = 0 := by
  have rows : ∀ r ∈ opcodeRowOwners, commandFields (opcodeRow r).1 = ⟨(encodeFields r).op, 0, 0, 0⟩ ∧
      (commandFields (opcodeRow r).2).op = BitVec.allOnes 8 ∧ (commandFields (opcodeRow r).2).ctx = 0 := by decide
  obtain ⟨r, hr, row, op⟩ := exists_rowOwner i
  rw [← row, ← op]
  exact rows r hr

/-- No two rows of the opcode map have one `op` (30 R140). -/
theorem opcodeRow_eq_of_op : ∀ r ∈ opcodeRowOwners, ∀ r' ∈ opcodeRowOwners,
    (encodeFields r).op = (encodeFields r').op → opcodeRow r = opcodeRow r' := by decide

/-- The words that select an operation's row are those with its `op` and zeros where the mask requires them
(30 R140). -/
theorem selects_iff {w : Word} {r : Instr} : w &&& (opcodeRow r).2 = (opcodeRow r).1 ↔
    (commandFields w).op = (encodeFields r).op ∧
    (commandFields w).idx &&& (commandFields (opcodeRow r).2).idx = 0 ∧
    (commandFields w).sub &&& (commandFields (opcodeRow r).2).sub = 0 := by
  obtain ⟨value, op, ctx⟩ := opcodeRow_fields r
  rw [and_eq_iff_fields, value, op, ctx, BitVec.and_allOnes]
  simp

/-- A word that selects a row decodes to an operation (30 R140). -/
theorem decodes_of_selects {w : Word} {r : Instr} (h : w &&& (opcodeRow r).2 = (opcodeRow r).1) :
    ∃ i, decodeWord w = .ok i := by
  obtain ⟨op, zeros⟩ := selects_iff.1 h
  exact (decodeFields_reads op).accepts_iff.2 zeros

/-- A word that decodes to an operation selects its row (30 R140, R141). -/
theorem selects_of_decodes {w : Word} {i : Instr} (h : decodeWord w = .ok i) :
    w &&& (opcodeRow i).2 = (opcodeRow i).1 := by
  have op : (commandFields w).op = (encodeFields i).op := by rw [decodeWord_eq_ok_iff.1 h]
  exact selects_iff.2 ⟨op, (decodeFields_reads op).accepts_iff.1 ⟨i, h⟩⟩

/-- A word decodes exactly where it selects a row of the opcode map (30 R140, R141). -/
theorem decodes_iff_selects {w : Word} : (∃ i, decodeWord w = .ok i) ↔ ∃ r ∈ opcodeTable, w &&& r.2 = r.1 := by
  constructor
  · rintro ⟨i, h⟩
    exact ⟨opcodeRow i, opcodeRow_mem i, selects_of_decodes h⟩
  · rintro ⟨_, hr, h⟩
    obtain ⟨r, -, rfl⟩ := List.mem_map.1 hr
    exact decodes_of_selects h

/-! ### The obligations -/

/-- Settles O1: the bytes of a word decode as the word, and the fields of an operation decode to it. -/
theorem decodeOfEncode : Obligations.DecodeOfEncode := by
  intro i rest
  have decodes : decodeWord (encodeWord i) = .ok i := decodeWord_eq_ok_iff.2 (by simp [encodeWord])
  rw [encode, decode_wordBytes, decodes]
  rfl

/-- Settles O2: the fields that decode to an operation are those it is written with. -/
theorem encodeOfDecode : Obligations.EncodeOfDecode := by
  intro w i h
  rw [encodeWord, decodeWord_eq_ok_iff.1 h, commandWord_commandFields]

/-- Settles O3: the decoder reads a word by the row of its `op`. -/
theorem decodeFollowsOpcodeMap : Obligations.DecodeFollowsOpcodeMap := by
  refine ⟨fun w => decodes_iff_selects, fun w i h => ⟨opcodeRow_mem i, selects_of_decodes h⟩, ?_⟩
  intro _ hr _ hr' w h h'
  obtain ⟨r, owner, rfl⟩ := List.mem_map.1 hr
  obtain ⟨r', owner', rfl⟩ := List.mem_map.1 hr'
  exact opcodeRow_eq_of_op r owner r' owner' ((selects_iff.1 h).1.symm.trans (selects_iff.1 h').1)

/-- Settles O4: each word, decoded. -/
theorem writtenWordsDecode : Obligations.WrittenWordsDecode :=
  ⟨rfl, rfl, rfl, rfl, rfl, rfl, rfl, rfl, rfl, rfl, rfl⟩

end Sys2Proof

/-! SUPPORT and PROOFS. A command word written to a bank (spec 30 R127, R138, R141, R142): what the issue comes to, case
by case, and the step that runs, ends or drops it. -/

namespace Sys2Proof

/-- The `ctx` field of a word that decodes is the operation's context (30 R127). -/
theorem ctx_of_decodeWord {w : Word} {i : Instr} (h : decodeWord w = .ok i) : (commandFields w).ctx = i.ctx := by
  rw [← decodeWord_eq_ok_iff.1 h]
  cases i <;> rfl

/-- The bytes of a word decode as the word (30 R127, R130). -/
theorem decodeWord_of_decode {w : Word} {i : Instr} (h : decode (wordBytes w) = .ok (i, [])) :
    decodeWord w = .ok i := by
  rw [← List.append_nil (wordBytes w), decode_wordBytes] at h
  cases decoded : decodeWord w with
  | error x =>
    rw [decoded] at h
    cases h
  | ok j =>
    rw [decoded] at h
    cases h
    rfl

/-- The micro-operations are the rows with an `op` from 0xE0 up (30 R140). -/
theorem isMicro_iff (i : Instr) : i.isMicro = true ↔ 0xE0 ≤ (encodeFields i).op := by
  cases i <;> exact of_decide_eq_true rfl

/-- The `op` of a word from 0xE0000000 up. -/
theorem le_op_of_le {w : Word} (h : 0xE0000000 ≤ w) : 0xE0 ≤ (commandFields w).op := by
  have value : 0xE0000000 ≤ w.toNat := h
  have op : (commandFields w).op.toNat = w.toNat / 2 ^ 24 % 2 ^ 8 := by
    rw [commandFields, BitVec.extractLsb'_toNat, Nat.shiftRight_eq_div_pow]
  have most := w.isLt
  have top : 0xE0 ≤ (commandFields w).op.toNat := by omega
  exact top

namespace Machine

variable {s : State} {c : Nat} {w : Word} {ms : List Move}

/-! ### The issue of a command word -/

/-- A command write to a busy bank is dropped (30 R138). -/
theorem issue_busy (busy : (s.bank c).busy = true) : issue c w s = .dropped := by simp [issue, busy]

/-- A command of another context, or of no context (30 R138). -/
theorem issue_badContext (hc : c < numBanks) (idle : (s.bank c).busy = false)
    (bad : (commandFields w).ctx.toNat ≠ c ∨ s.params.numCpus ≤ c) :
    issue c w s = .ended (s.modBank c fun b => { b with cmd := w, status := .errBadArg }) := by
  have bad : (commandFields w).ctx.toNat ≠ c ∨ s.params.numCpus ≤ (commandFields w).ctx.toNat := by omega
  simp only [issue]
  rw [if_neg (by simp [idle, hc]), if_pos bad, State.endAtOnce, State.modBank_modBank _ _ _ _ hc]

section
variable (hc : c < numBanks) (idle : (s.bank c).busy = false) (ctx : (commandFields w).ctx.toNat = c)
  (cpu : c < s.params.numCpus)
include hc idle ctx cpu

/-- A reserved word, or the word of a micro-operation, from the bank's own context (30 R141, R142). -/
theorem issue_reserved (reserved : ∀ i, decodeWord w = .ok i → i.isMicro = true) :
    issue c w s = .ended (s.modBank c fun b => { b with cmd := w, status := .errReservedOp }) := by
  simp only [issue]
  rw [if_neg (by simp [idle, hc]), if_neg (by omega), State.endAtOnce, State.modBank_modBank _ _ _ _ hc]
  split
  · rfl
  · rw [if_pos (reserved _ ‹_›)]

/-- The word of an operation from the bank's own context (30 R138). -/
theorem issue_run {i : Instr} (decodes : decodeWord w = .ok i) (host : i.isMicro = false) :
    issue c w s = .run i (s.modBank c fun b => { b with cmd := w, busy := true }) := by
  simp only [issue, decodes, host]
  rw [if_neg (by simp [idle, hc]), if_neg (by omega), if_neg (by simp), State.modBank_modBank _ _ _ _ hc]

end

/-! ### The step at a command write -/

/-- A write to the command register of a bank is a command of that bank (30 R130, R131). -/
theorem commandWrite_commandOffset (hc : c < numBanks) (v : Word) :
    commandWrite (commandOffset c) 4 v = some (c, v) := by
  have offset : (commandOffset c).toNat = 0x40 * c := by
    simp only [commandOffset, BitVec.toNat_ofNat, numBanks] at *
    omega
  simp only [numBanks] at hc
  rw [commandWrite, if_pos (by simp [registerAccess, offset]; omega), offset]
  simp

section
variable (move : s.agenda = .hostWrite (commandOffset c) 4 w :: ms) (hc : c < numBanks)
include move hc

theorem step_of_dropped (h : issue c w (s.setAgenda ms) = .dropped) : step s = .next (s.setAgenda ms) := by
  simp only [step, move, commandOf, commandWrite_commandOffset hc, h]

theorem step_of_ended {t : State} (h : issue c w (s.setAgenda ms) = .ended t) : step s = .next t := by
  simp only [step, move, commandOf, commandWrite_commandOffset hc, h]

theorem step_of_run {i : Instr} {t : State} (h : issue c w (s.setAgenda ms) = .run i t) : step s = exec i t := by
  simp only [step, move, commandOf, commandWrite_commandOffset hc, h]

end

/-! ### The obligations -/

/-- Settles O7: the issue of a word that decodes to a host's operation. -/
theorem stepRunsDecodedCommand : Obligations.StepRunsDecodedCommand := by
  intro s c w i ms move hc idle ctx cpu decodes host
  have decodes := decodeWord_of_decode decodes
  have own : (commandFields w).ctx.toNat = c := by rw [ctx_of_decodeWord decodes, ctx]
  exact step_of_run move hc (issue_run (s := s.setAgenda ms) hc idle own cpu decodes host)

/-- Settles O8: the two issues that the bank turns away before it decodes. -/
theorem commandIssueRefused : Obligations.CommandIssueRefused := by
  intro s c w ms move hc
  exact ⟨fun busy => step_of_dropped move hc (issue_busy busy),
    fun idle bad => step_of_ended move hc (issue_badContext hc idle bad)⟩

/-- Settles O9: neither a reserved word nor one from 0xE0000000 up decodes to an operation of the host. -/
theorem reservedAndMicroWordsRefused : Obligations.ReservedAndMicroWordsRefused := by
  intro s c w ms move hc idle ctx cpu refused
  refine step_of_ended move hc (issue_reserved hc idle ctx cpu fun i decodes => ?_)
  rcases refused with reserved | ⟨least, -, -⟩
  · obtain ⟨r, hr, selects⟩ := decodes_iff_selects.1 ⟨i, decodes⟩
    exact absurd selects (reserved r hr)
  · rw [isMicro_iff, decodeWord_eq_ok_iff.1 decodes]
    exact le_op_of_le least

end Machine

end Sys2Proof

/-! SUPPORT and PROOFS. The register map (spec 30 R129 to R136; 20 R86): the register an access of each block reaches,
what a write of it stores, and what the composed status registers read. -/

namespace Sys2Proof.Machine

variable {s : State} {c j r n : Nat} {v : Word} {o : BitVec 12}

/-! ### Which register an access reaches (30 R130) -/

/-- An access that is not 32 bits wide and aligned is none of the register space (20 R86). -/
theorem registerAccess_odd (odd : n ≠ 4 ∨ o.toNat % 4 ≠ 0) : registerAccess o n = false :=
  decide_eq_false fun h => odd.elim (fun wide => wide h.1) fun unaligned => unaligned h.2

theorem readRegister_odd (odd : n ≠ 4 ∨ o.toNat % 4 ≠ 0) : s.readRegister o n = 0 := by
  simp [State.readRegister, registerAccess_odd odd]

theorem writeRegister_odd (odd : n ≠ 4 ∨ o.toNat % 4 ≠ 0) : s.writeRegister o n v = s := by
  simp [State.writeRegister, registerAccess_odd odd]

/-- A number of the register space, as an offset, is itself. -/
theorem toNat_offset (h : n < 0x1000) : (BitVec.ofNat 12 n).toNat = n := Nat.mod_eq_of_lt h

theorem registerAccess_offset (h : n < 0x1000) (aligned : n % 4 = 0) :
    registerAccess (BitVec.ofNat 12 n) 4 = true := by
  rw [registerAccess, toNat_offset h]
  exact decide_eq_true ⟨rfl, aligned⟩

section
variable (aligned : r % 4 = 0)
include aligned

theorem readRegister_bank (hc : c < 16) (hr : r < 0x40) :
    s.readRegister (BitVec.ofNat 12 (0x40 * c + r)) 4 = readBank (s.bank c) r := by
  have lt : 0x40 * c + r < 0x400 := by omega
  have inSpace : 0x40 * c + r < 0x1000 := by omega
  rw [State.readRegister, toNat_offset inSpace, registerAccess_offset inSpace (by omega), if_neg (by simp), if_pos lt,
    show (0x40 * c + r) / 0x40 = c by omega, show (0x40 * c + r) % 0x40 = r by omega]

theorem writeRegister_bank (hc : c < 16) (hr : r < 0x40) :
    s.writeRegister (BitVec.ofNat 12 (0x40 * c + r)) 4 v = s.modBank c fun b => writeBank b r v := by
  have lt : 0x40 * c + r < 0x400 := by omega
  have inSpace : 0x40 * c + r < 0x1000 := by omega
  rw [State.writeRegister, toNat_offset inSpace, registerAccess_offset inSpace (by omega), if_neg (by simp), if_pos lt,
    show (0x40 * c + r) / 0x40 = c by omega, show (0x40 * c + r) % 0x40 = r by omega]

theorem readRegister_device (hr : r < 0x100) :
    s.readRegister (BitVec.ofNat 12 (0x400 + r)) 4 = s.readDevice r := by
  have inSpace : 0x400 + r < 0x1000 := by omega
  rw [State.readRegister, toNat_offset inSpace, registerAccess_offset inSpace (by omega), if_neg (by simp),
    if_neg (by omega), if_pos (by omega), Nat.add_sub_cancel_left]

section
variable (hj : j < 8) (hr : r < 0x20)
include hj hr

theorem readRegister_group : s.readRegister (BitVec.ofNat 12 (0x500 + r + 0x20 * j)) 4 = s.readGroup j r := by
  have inSpace : 0x500 + r + 0x20 * j < 0x1000 := by omega
  rw [State.readRegister, toNat_offset inSpace, registerAccess_offset inSpace (by omega), if_neg (by simp),
    if_neg (by omega), if_neg (by omega), if_pos (by omega), show (0x500 + r + 0x20 * j - 0x500) / 0x20 = j by omega,
    show (0x500 + r + 0x20 * j - 0x500) % 0x20 = r by omega]

theorem readRegister_rx : s.readRegister (BitVec.ofNat 12 (0x600 + r + 0x20 * j)) 4 = readRxQueue (s.rx j) r := by
  have inSpace : 0x600 + r + 0x20 * j < 0x1000 := by omega
  rw [State.readRegister, toNat_offset inSpace, registerAccess_offset inSpace (by omega), if_neg (by simp),
    if_neg (by omega), if_neg (by omega), if_neg (by omega), if_pos (by omega),
    show (0x600 + r + 0x20 * j - 0x600) / 0x20 = j by omega, show (0x600 + r + 0x20 * j - 0x600) % 0x20 = r by omega]

theorem readRegister_tx : s.readRegister (BitVec.ofNat 12 (0x700 + r + 0x20 * j)) 4 = readTxQueue (s.tx j) r := by
  have inSpace : 0x700 + r + 0x20 * j < 0x1000 := by omega
  rw [State.readRegister, toNat_offset inSpace, registerAccess_offset inSpace (by omega), if_neg (by simp),
    if_neg (by omega), if_neg (by omega), if_neg (by omega), if_neg (by omega), if_pos (by omega),
    show (0x700 + r + 0x20 * j - 0x700) / 0x20 = j by omega, show (0x700 + r + 0x20 * j - 0x700) % 0x20 = r by omega]

end

section
variable (writable : s.configWritable = true)
include writable

theorem writeRegister_device (hr : r < 0x100) (noDoorbell : r ≠ 0x18) :
    s.writeRegister (BitVec.ofNat 12 (0x400 + r)) 4 v = s.modDev fun d => writeDevice d r v := by
  have inSpace : 0x400 + r < 0x1000 := by omega
  rw [State.writeRegister, toNat_offset inSpace, registerAccess_offset inSpace (by omega), if_neg (by simp),
    if_neg (by omega), if_neg (by omega), if_neg (by simp [writable]), if_pos (by omega), Nat.add_sub_cancel_left]

theorem writeRegister_group (hj : j < 8) (hr : r < 0x20) :
    s.writeRegister (BitVec.ofNat 12 (0x500 + r + 0x20 * j)) 4 v = s.modGrp j fun g => writeGroup g r v := by
  have inSpace : 0x500 + r + 0x20 * j < 0x1000 := by omega
  rw [State.writeRegister, toNat_offset inSpace, registerAccess_offset inSpace (by omega), if_neg (by simp),
    if_neg (by omega), if_neg (by omega), if_neg (by simp [writable]), if_neg (by omega), if_pos (by omega),
    show (0x500 + r + 0x20 * j - 0x500) / 0x20 = j by omega, show (0x500 + r + 0x20 * j - 0x500) % 0x20 = r by omega]

omit aligned

theorem writeRegister_rxSize (hj : j < 8) :
    s.writeRegister (BitVec.ofNat 12 (0x608 + 0x20 * j)) 4 v = s.modRx j fun q => { q with size := v.setWidth 16 } := by
  have inSpace : 0x608 + 0x20 * j < 0x1000 := by omega
  rw [State.writeRegister, toNat_offset inSpace, registerAccess_offset inSpace (by omega), if_neg (by simp),
    if_neg (by omega), if_neg (by omega), if_neg (by simp [writable]), if_neg (by omega), if_neg (by omega),
    if_pos (by omega), if_pos (by omega), show (0x608 + 0x20 * j - 0x600) / 0x20 = j by omega]

theorem writeRegister_txSize (hj : j < 8) :
    s.writeRegister (BitVec.ofNat 12 (0x708 + 0x20 * j)) 4 v = s.modTx j fun t => { t with size := v.setWidth 16 } := by
  have inSpace : 0x708 + 0x20 * j < 0x1000 := by omega
  rw [State.writeRegister, toNat_offset inSpace, registerAccess_offset inSpace (by omega), if_neg (by simp),
    if_neg (by omega), if_neg (by omega), if_neg (by simp [writable]), if_neg (by omega), if_neg (by omega),
    if_neg (by omega), if_pos (by omega), if_pos (by omega), show (0x708 + 0x20 * j - 0x700) / 0x20 = j by omega]

end

end

/-! ### Writes that change nothing -/

/-- The device registers and those after them are guarded, but for `TXPOLL` (30 R130). -/
theorem writeRegister_locked (locked : s.configWritable = false) (least : 0x400 ≤ o.toNat)
    (noDoorbell : o.toNat ≠ 0x418) : s.writeRegister o n v = s := by
  rw [State.writeRegister]
  split
  · rfl
  · rw [if_neg (by omega), if_pos (by simp [locked])]

theorem writeBank_readOnly {b : Bank} (h : r ∉ [0x08, 0x0C, 0x10, 0x14, 0x18, 0x1C]) : writeBank b r v = b := by
  unfold writeBank
  split <;> simp_all

theorem writeDevice_readOnly {d : Device} (caps : r ≠ 0x2C) (nqueues : r ≠ 0x30) : writeDevice d r v = d := by
  unfold writeDevice
  split <;> simp_all

theorem writeGroup_readOnly {g : Group} (h : r ∉ [0x08, 0x0C, 0x10]) : writeGroup g r v = g := by
  unfold writeGroup
  split <;> simp_all

/-- A write of an offset that is no operand register, no `TXPOLL` and no configuration register (30 R130, 20 R86). -/
theorem writeRegister_readOnly
    (bank : o.toNat < 0x400 → o.toNat % 0x40 ∉ [0x08, 0x0C, 0x10, 0x14, 0x18, 0x1C])
    (device : o.toNat ∉ [0x418, 0x42C, 0x430])
    (block : ∀ j, j < 8 → o.toNat ∉ [0x508 + 0x20 * j, 0x50C + 0x20 * j, 0x510 + 0x20 * j, 0x608 + 0x20 * j,
      0x708 + 0x20 * j]) : s.writeRegister o n v = s := by
  simp only [List.mem_cons, List.not_mem_nil, or_false, not_or] at device block
  obtain ⟨noDoorbell, caps, nqueues⟩ := device
  rw [State.writeRegister]
  split
  · rfl
  split
  · exact s.modBank_self _ _ (writeBank_readOnly (bank ‹_›))
  split
  · rfl
  split
  · exact s.modDev_self _ (writeDevice_readOnly (by omega) (by omega))
  split
  · have := block ((o.toNat - 0x500) / 0x20) (by omega)
    exact s.modGrp_self _ _ (writeGroup_readOnly (by simp; omega))
  split
  · have := block ((o.toNat - 0x600) / 0x20) (by omega)
    rw [if_neg (by omega)]
  split
  · have := block ((o.toNat - 0x700) / 0x20) (by omega)
    rw [if_neg (by omega)]
  · rfl

/-! ### What is stored, and what reads back -/

/-- A register of the low `w` bits of a word reads back with its other bits 0. -/
theorem setWidth_setWidth_eq_and (w : Nat) : (v.setWidth w).setWidth 32 = v &&& BitVec.ofNat 32 (2 ^ w - 1) := by
  apply BitVec.eq_of_getLsbD_eq
  intro i hi
  simp only [BitVec.getLsbD_setWidth, BitVec.getLsbD_and, BitVec.getLsbD_ofNat, Nat.testBit_two_pow_sub_one, hi,
    decide_true, Bool.true_and]
  exact Bool.and_comm _ _

@[simp] theorem highWord_append (hi lo : Word) : highWord (hi ++ lo) = hi := BitVec.extractLsb'_append_eq_left

@[simp] theorem lowWord_append (hi lo : Word) : lowWord (hi ++ lo) = lo := BitVec.extractLsb'_append_eq_right

/-- A 64-bit register with both halves written. -/
@[simp] theorem withLow_withHigh (d : DWord) (hi lo : Word) : withLow (withHigh d hi) lo = hi ++ lo := by
  simp [withLow, withHigh]

section
variable (hi lo : Word)

/-- A register of a bank and the one after it written (30 R131). -/
theorem writeRegister_halves (aligned : r % 4 = 0) (hc : c < 16) (hr : r + 4 < 0x40) :
    (s.writeRegister (BitVec.ofNat 12 (0x40 * c + r)) 4 hi).writeRegister (BitVec.ofNat 12 (0x40 * c + r + 4)) 4 lo =
      s.modBank c fun b => writeBank (writeBank b r hi) (r + 4) lo := by
  rw [writeRegister_bank aligned hc (by omega), Nat.add_assoc, writeRegister_bank (by omega) hc hr,
    State.modBank_modBank _ _ _ _ hc]

/-- The halves of an operand read back as they were written (30 R131). -/
theorem readBank_halves (b : Bank) (hr : r ∈ [8, 16, 24]) :
    readBank (writeBank (writeBank b r hi) (r + 4) lo) r = hi ∧
      readBank (writeBank (writeBank b r hi) (r + 4) lo) (r + 4) = lo := by
  simp only [List.mem_cons, List.not_mem_nil, or_false] at hr
  rcases hr with rfl | rfl | rfl <;> simp [readBank, writeBank]

end

/-! ### The doorbell (45 R325) -/

theorem mem_bitIndexes {b : BitVec 8} {q : Nat} : q ∈ bitIndexes b ↔ b.getLsbD q = true := by
  simp only [bitIndexes, List.mem_filter, List.mem_range]
  exact ⟨And.right, fun h => ⟨BitVec.lt_of_getLsbD h, h⟩⟩

/-- Waking rings changes the engine's TX registers alone. -/
theorem foldl_wake_frame (qs : List Nat) (s : State) :
    ∃ e, qs.foldl (fun s q => s.modEtx q fun e => { e with idle := false }) s = { s with engTx := e } := by
  induction qs generalizing s with
  | nil => exact ⟨s.engTx, rfl⟩
  | cons q qs ih => exact ih (s.modEtx q _)

theorem doorbell_frame (s : State) (b : BitVec 8) : s.doorbell b = { s with engTx := (s.doorbell b).engTx } := by
  obtain ⟨e, h⟩ := foldl_wake_frame (bitIndexes b) s
  rw [State.doorbell, h]

/-- After a list of rings was woken, a ring is idle where it was idle and is not in the list. -/
theorem etx_foldl_wake (qs : List Nat) (s : State) {q : Nat} (hq : q < 8) :
    (qs.foldl (fun s q => s.modEtx q fun e => { e with idle := false }) s).etx q =
      { s.etx q with idle := (s.etx q).idle && !decide (q ∈ qs) } := by
  induction qs generalizing s with
  | nil => simp
  | cons p qs ih =>
    rw [List.foldl_cons, ih, State.etx_modEtx]
    by_cases h : p = q
    · simp [h, hq]
    · simp [h, Ne.symm h]

theorem etx_doorbell (s : State) (b : BitVec 8) {q : Nat} (hq : q < 8) :
    (s.doorbell b).etx q = { s.etx q with idle := (s.etx q).idle && !b.getLsbD q } := by
  rw [State.doorbell, etx_foldl_wake _ _ hq]
  simp [mem_bitIndexes]

theorem writeRegister_txpoll : s.writeRegister 0x418 4 v = s.doorbell (v.setWidth 8) := rfl

/-! ### The composed status registers -/

/-- `RXIC`, `TXIC` as a number (30 R135). -/
theorem icRegister_eq (p : Coalesce) :
    icRegister p = BitVec.ofNat 32 (p.maxFrames.toNat * 2 ^ 16 + p.maxDelay.toNat) := by
  have frames := p.maxFrames.isLt
  have delay := p.maxDelay.isLt
  apply BitVec.eq_of_toNat_eq
  have high : (p.maxFrames.setWidth 32 <<< 16).toNat = p.maxFrames.toNat <<< 16 := by
    rw [BitVec.toNat_shiftLeft, BitVec.toNat_setWidth, Nat.shiftLeft_eq, Nat.shiftLeft_eq]
    omega
  have low : (p.maxDelay.setWidth 32).toNat = p.maxDelay.toNat := by
    rw [BitVec.toNat_setWidth]
    omega
  rw [icRegister, BitVec.toNat_or, high, low, ← Nat.shiftLeft_add_eq_or_of_lt delay, Nat.shiftLeft_eq,
    BitVec.toNat_ofNat]
  omega

section
variable (a b c d : Bool)

/-- The fields of `DEVSTAT` (30 R132). -/
theorem devstat_fields (x : DevState) :
    flagAt (decide (x = .up)) 0 ||| (devStateBits x <<< 1) ||| flagAt a 3 ||| flagAt b 4 ||| flagAt c 5 =
      (flagAt (decide (x = .up)) 0 + (devStateBits x <<< 1)) + flagAt a 3 + flagAt b 4 + flagAt c 5 := by
  cases x <;> revert a b c <;> decide

/-- The fields of `GRP_STAT` (30 R134). -/
theorem grpStat_fields :
    flagAt a 0 ||| flagAt b 1 ||| flagAt c 2 ||| flagAt d 3 = flagAt a 0 + flagAt b 1 + flagAt c 2 + flagAt d 3 := by
  revert a b c d
  decide

/-- The fields of `TQSTAT` (30 R136). -/
theorem tqstat_fields : flagAt a 0 ||| flagAt b 1 = flagAt a 0 + flagAt b 1 := by
  revert a b
  decide

end

theorem flagAt_eq (b : Bool) (i : Nat) : flagAt b i = if b then BitVec.twoPow 32 i else 0 := by
  rw [flagAt, BitVec.twoPow_eq]
  rfl

/-! ### The obligations -/

/-- Settles O10: the bank of the operation is the one bank written, and its `STATUS` is the code alone. -/
theorem operationEnd : Obligations.OperationEnd := by
  intro s c r hc
  have bank : (s.finish c r).bank c = { s.bank c with
      status := r.code, rval0 := r.rval0.getD (s.bank c).rval0, rval1 := r.rval1.getD (s.bank c).rval1, busy := false,
      op := none } := s.bank_modBank_same c _ hc
  refine ⟨by rw [bank], ?_, by rw [bank], by rw [bank], ⟨(s.finish c r).bank c, by rw [bank]; rfl⟩,
    fun c' ne => s.bank_modBank_other _ ne.symm⟩
  rw [readRegister_bank rfl hc (by decide), bank]
  simp [readBank, statusRegister, flagAt]

/-- Settles O54: every access by the block of its offset. -/
theorem registerAccessGuarded : Obligations.RegisterAccessGuarded := by
  intro s o n v
  refine ⟨fun odd => ⟨writeRegister_odd odd, readRegister_odd odd⟩, fun least noDoorbell locked => ?_,
    fun bank device block => writeRegister_readOnly bank device block, fun down idle => ?_, ?_⟩
  · refine writeRegister_locked ?_ least noDoorbell
    rcases locked with notDown | busy
    · simp [State.configWritable, notDown]
    · simp [State.configWritable, busy]
  · have writable : s.configWritable = true := by simp [State.configWritable, down, idle]
    refine ⟨⟨writeRegister_device (r := 0x2C) rfl writable (by decide) (by decide), ?_⟩,
      ⟨writeRegister_device (r := 0x30) rfl writable (by decide) (by decide), ?_⟩, fun j hj => ?_⟩
    · exact (readRegister_device (r := 0x2C) rfl (by decide)).trans (setWidth_setWidth_eq_and 4)
    · exact (readRegister_device (r := 0x30) rfl (by decide)).trans (setWidth_setWidth_eq_and 12)
    refine ⟨⟨writeRegister_group (r := 0x08) rfl writable hj (by decide), ?_⟩,
      ⟨writeRegister_group (r := 0x0C) rfl writable hj (by decide), ?_⟩,
      ⟨writeRegister_group (r := 0x10) rfl writable hj (by decide), ?_⟩,
      ⟨writeRegister_rxSize writable hj, ?_⟩, ⟨writeRegister_txSize writable hj, ?_⟩⟩
    · refine (readRegister_group (r := 0x08) rfl hj (by decide)).trans ?_
      rw [State.readGroup, State.grp_modGrp_same _ _ _ hj]
      exact setWidth_setWidth_eq_and 8
    · refine (readRegister_group (r := 0x0C) rfl hj (by decide)).trans ?_
      rw [State.readGroup, State.grp_modGrp_same _ _ _ hj]
      exact setWidth_setWidth_eq_and 8
    · refine (readRegister_group (r := 0x10) rfl hj (by decide)).trans ?_
      rw [State.readGroup, State.grp_modGrp_same _ _ _ hj]
      exact BitVec.and_allOnes.symm
    · refine (readRegister_rx (r := 0x08) rfl hj (by decide)).trans ?_
      rw [State.rx_modRx_same _ _ _ hj]
      exact setWidth_setWidth_eq_and 16
    · refine (readRegister_tx (r := 0x08) rfl hj (by decide)).trans ?_
      rw [State.tx_modTx_same _ _ _ hj]
      exact setWidth_setWidth_eq_and 16
  · refine ⟨doorbell_frame s _, fun q hq => ?_, readRegister_device (r := 0x18) rfl (by decide)⟩
    rw [writeRegister_txpoll, etx_doorbell _ _ hq]
    simp [hq]

/-- Settles O55: both halves written make the operand; each composed register is the sum of its fields. -/
theorem operandRegisterHalves : Obligations.OperandRegisterHalves := by
  refine ⟨fun s c hi lo hc => ?_, fun s => ⟨?_, fun j hj => ⟨?_, ?_, ?_, ?_, ?_⟩⟩⟩
  · intro written
    have halves (r : Nat) (aligned : r % 4 = 0) (hr : r + 4 < 0x40) :
        written r = s.modBank c fun b => writeBank (writeBank b r hi) (r + 4) lo :=
      writeRegister_halves hi lo aligned hc hr
    refine ⟨?_, ?_, ?_, fun r hr => ?_⟩
    · rw [halves 8 rfl (by decide)]
      simp only [writeBank, withLow_withHigh]
    · rw [halves 16 rfl (by decide)]
      simp only [writeBank, withLow_withHigh]
    · rw [halves 24 rfl (by decide)]
      simp only [writeBank, withLow_withHigh]
    obtain ⟨aligned, inBank⟩ : r % 4 = 0 ∧ r + 4 < 0x40 := by
      revert r
      decide
    obtain ⟨high, low⟩ := readBank_halves hi lo (s.bank c) hr
    rw [halves r aligned inBank]
    constructor
    · rw [readRegister_bank aligned hc (by omega), State.bank_modBank_same _ _ _ hc, high]
    · rw [Nat.add_assoc, readRegister_bank (by omega) hc inBank, State.bank_modBank_same _ _ _ hc, low]
  · refine (readRegister_device (r := 0) rfl (by decide)).trans ?_
    rw [State.readDevice, State.devstat, devstat_fields]
    simp only [flagAt_eq]
    cases s.dev.devState <;> rfl
  · refine (readRegister_group (r := 0x14) rfl hj (by decide)).trans ?_
    rw [State.readGroup, State.grpStat, grpStat_fields]
    simp only [flagAt_eq]
    rfl
  · exact (readRegister_rx (r := 0x14) rfl hj (by decide)).trans (flagAt_eq _ _)
  · refine (readRegister_tx (r := 0x1C) rfl hj (by decide)).trans ?_
    rw [readTxQueue, tqstat_fields, flagAt_eq, flagAt_eq]
  · exact (readRegister_rx (r := 0x10) rfl hj (by decide)).trans (icRegister_eq _)
  · exact (readRegister_tx (r := 0x18) rfl hj (by decide)).trans (icRegister_eq _)

end Sys2Proof.Machine

/-! SUPPORT and PROOFS. The micro-operations `ARM_RX`, `SLOT_READY` and `RING_NEXT` as operations of their own (spec 30
R128; 40 R166, R169, R172; log 12): a slot outside the ring, a slot the engine owns, and the outcome otherwise. -/

namespace Sys2Proof.Machine

variable {s : State} {c q : Nat} {kd : Kind}

/-! ### A slot outside the ring (log 13) -/

theorem ends_progArmRx_badSlot (out : s.hasSlot .rx q (s.bank c).arg0.toNat = false) :
    (progArmRx c q).Ends s (Result.only .errBadArg) s := by simp [progArmRx, out]

theorem ends_progSlotReady_badSlot (out : s.hasSlot kd q (s.bank c).arg0.toNat = false) :
    (progSlotReady c kd q).Ends s (Result.only .errBadArg) s := by simp [progSlotReady, out]

theorem ends_progRingNext_badSlot (out : s.hasSlot kd q (s.bank c).arg0.toNat = false) :
    (progRingNext c kd q).Ends s (Result.only .errBadArg) s := by simp [progRingNext, out]

/-! ### A slot of the ring -/

/-- The answer of `SLOT_READY` as a result (30 R128). -/
theorem boolResult_ready (w : Word) : boolResult (!engineOwned w) = if w.getLsbD 31 then 0 else 1 := by
  cases owned : w.getLsbD 31 <;> simp only [boolResult, engineOwned, owned] <;> rfl

/-- The answer of `RING_NEXT` as a result (30 R128). -/
theorem natResult_next (w : Word) (i : Nat) :
    natResult (if wrapFlag w then 0 else i + 1) = if w.getLsbD 29 then 0 else BitVec.ofNat 64 (i + 1) := by
  cases wrap : w.getLsbD 29 <;> simp only [natResult, wrapFlag, wrap] <;> rfl

/-- `SLOT_READY` answers by the ownership flag (40 R169). -/
theorem ends_progSlotReady (slot : s.hasSlot kd q (s.bank c).arg0.toNat = true)
    (inside : s.desc kd q (s.bank c).arg0.toNat + 4 ≤ addressSpace) :
    (progSlotReady c kd q).Ends s
      ⟨.ok, some (if (readWord s.mem (s.desc kd q (s.bank c).arg0.toNat)).getLsbD 31 then 0 else 1), none⟩ s := by
  rw [← boolResult_ready]
  simp [progSlotReady, slot, Prog.ends_slotReady inside]

/-- `RING_NEXT` answers by the `WRAP` flag (40 R172; log 44). -/
theorem ends_progRingNext (slot : s.hasSlot kd q (s.bank c).arg0.toNat = true)
    (inside : s.desc kd q (s.bank c).arg0.toNat + 4 ≤ addressSpace) :
    (progRingNext c kd q).Ends s
      ⟨.ok, some (if (readWord s.mem (s.desc kd q (s.bank c).arg0.toNat)).getLsbD 29 then 0
        else BitVec.ofNat 64 ((s.bank c).arg0.toNat + 1)), none⟩ s := by
  rw [← natResult_next]
  simp [progRingNext, slot, Prog.ends_ringNext inside]

/-- `ARM_RX` of a slot software owns arms it (40 R166). -/
theorem ends_progArmRx (slot : s.hasSlot .rx q (s.bank c).arg0.toNat = true)
    (inside : s.desc .rx q (s.bank c).arg0.toNat + 16 ≤ addressSpace)
    (owned : engineOwned (readWord s.mem (s.desc .rx q (s.bank c).arg0.toNat)) = false) :
    (progArmRx c q).Ends s (Result.only .ok) (s.setMem (armed s.mem (s.desc .rx q (s.bank c).arg0.toNat)
      (s.bank c).arg1 (lstatusOf (armStatus (s.bank c).arg0.toNat (s.rx q).n) 0))) := by
  rw [progArmRx, Prog.ends_askDWord, Prog.ends_askDWord, Prog.ends_askFlag, if_neg (by simp [slot]),
    Prog.ends_slotReady (by omega), Prog.ends_require (by simp [owned]), Prog.ends_armRx inside, Prog.ends_done]
  exact ⟨rfl, rfl⟩

/-- `ARM_RX` of a slot the engine owns is outside its precondition (40 R166; log 13). -/
theorem execute_progArmRx_refused {i : Instr} (slot : s.hasSlot .rx q (s.bank c).arg0.toNat = true)
    (inside : s.desc .rx q (s.bank c).arg0.toNat + 4 ≤ addressSpace)
    (owned : engineOwned (readWord s.mem (s.desc .rx q (s.bank c).arg0.toNat)) = true) :
    execute i (progArmRx c q) s = .refused .outsideContract := by
  have tested : (progArmRx c q).Reaches s _ s :=
    ((Prog.reaches_askDWord _ _).trans (Prog.reaches_askDWord _ _)).trans (Prog.reaches_askFlag _ _)
  rw [if_neg (by simp [slot])] at tested
  exact execute_of_refused (tested.trans (Prog.reaches_read32 _ inside)) (by simp [owned])

/-- The word of an armed slot (30 R123, R126; 40 R166). -/
theorem armedWord (i n : Nat) : lstatusOf (armStatus i n) 0 = if i + 1 = n then 0xB0000000 else 0x90000000 := by
  unfold armStatus wrapOf
  split <;> rfl

/-- Where `WRAP` is in the last slot alone, the next index is the sum modulo the ring's size (10 R28). -/
theorem nextIndex_of_wrap {b : Bool} {i n : Nat} (hi : i < n) (wrap : b = decide (i + 1 = n)) :
    (if b then 0 else BitVec.ofNat 64 (i + 1)) = BitVec.ofNat 64 (nextIndex i n) := by
  by_cases last : i + 1 = n
  · simp [nextIndex, wrap, last]
  · have mid : nextIndex i n = i + 1 := Nat.mod_eq_of_lt (by omega)
    simp [mid, wrap, last]

/-- A slot of a ring has an index below the ring's size (40 R166). -/
theorem State.lt_of_hasSlot {i : Nat} (slot : s.hasSlot kd q i = true) : i < s.ringSize kd q := by
  simp only [State.hasSlot, Bool.and_eq_true, decide_eq_true_eq] at slot
  exact slot.2

/-! ### The obligations -/

/-- Settles O26: the slot's precondition test by test, then the memory of an armed slot. -/
theorem armRxHandsSlotOver : Obligations.ArmRxHandsSlotOver := by
  intro ctx q s i a d
  rw [exec_eq_execute]
  refine ⟨fun out => execute_of_ends (ends_progArmRx_badSlot out),
    fun slot inside => ⟨fun owned => ?_, fun owned wf => ?_⟩⟩
  · exact execute_progArmRx_refused slot (Nat.le_trans (Nat.add_le_add_left (by decide) d) inside) owned
  · obtain ⟨sorted, -⟩ := wf
    refine ⟨_, execute_of_ends (ends_progArmRx slot inside owned), readDWord_armed _ _ _ _ sorted,
      (readWord_armed _ _ _ _ sorted).trans (armedWord i _), fun x outside => ?_, rfl⟩
    have apart : (x < d ∨ d + 4 ≤ x) ∧ (x < d + 8 ∨ d + 16 ≤ x) := by
      simp only [inDescriptor] at outside
      omega
    exact readByte_armed_outside _ _ _ _ _ sorted apart

/-- Settles O27: the answers by the slot's word, and the next index as a sum modulo the ring's size. -/
theorem slotReadyAndRingNextAnswer : Obligations.SlotReadyAndRingNextAnswer := by
  intro ctx q k s i w
  rw [exec_eq_execute, exec_eq_execute]
  refine ⟨fun out => ⟨execute_of_ends (ends_progSlotReady_badSlot out),
    execute_of_ends (ends_progRingNext_badSlot out)⟩, fun slot inside => ?_⟩
  have next := execute_of_ends (i := .ringNext ctx k q) (ends_progRingNext slot inside)
  refine ⟨execute_of_ends (ends_progSlotReady slot inside), next, fun wrap => next.trans ?_⟩
  rw [nextIndex_of_wrap (State.lt_of_hasSlot slot) wrap]
  rfl

end Sys2Proof.Machine

/-! SUPPORT and PROOFS. `RING_INIT` as an operation of its own (spec 40 R162, R163; 45 R331; log 12): what the memory of
a fresh ring reads as word by word, and the registers of its queue as one update. -/

namespace Sys2Proof.Machine

variable {s : State} {c q n : Nat} {kd : Kind} {base : DWord}

/-! ### The memory of a fresh ring, word by word (40 R162) -/

section
variable {m : List Host.Cell} {lo a i : Nat} (sorted : (m.map Prod.fst).Pairwise (· < ·))
include sorted

/-- A word of a fresh ring that does not hold the flag byte of the last slot. -/
theorem readWord_freshRing_zero (inside : lo ≤ a ∧ a + 4 ≤ lo + 16 * n)
    (apart : a + 4 ≤ lo + 16 * (n - 1) ∨ lo + 16 * (n - 1) < a) : readWord (freshRing m lo n) a = 0 := by
  have byte : ∀ x, a ≤ x → x < a + 4 → readByte (freshRing m lo n) x = 0 := fun x _ _ => by
    rw [readByte_freshRing m lo n x sorted (by omega), if_neg (by omega), if_pos (by omega)]
  simp only [readWord, byte a (by omega) (by omega), byte (a + 1) (by omega) (by omega),
    byte (a + 2) (by omega) (by omega), byte (a + 3) (by omega) (by omega)]
  rfl

/-- `lstatus` of a slot of a fresh ring: `WRAP` in the last slot alone. -/
theorem readWord_freshRing_lstatus (hi : i < n) :
    readWord (freshRing m lo n) (lo + 16 * i) = if i + 1 = n then 0x20000000 else 0 := by
  by_cases last : i + 1 = n
  · have slot : i = n - 1 := by omega
    rw [if_pos last, slot, freshRing, foldl_zeroSlot]
    exact readWord_writeWord _ _ _ (sorted_writeBytes _ _ _ sorted)
  · rw [if_neg last]
    exact readWord_freshRing_zero sorted (by omega) (by omega)

/-- The word after `lstatus` in a slot of a fresh ring. -/
theorem readWord_freshRing_reserved (hi : i < n) : readWord (freshRing m lo n) (lo + 16 * i + 4) = 0 :=
  readWord_freshRing_zero sorted (by omega) (by omega)

/-- `addr` of a slot of a fresh ring. -/
theorem readDWord_freshRing_addr (hi : i < n) : readDWord (freshRing m lo n) (lo + 16 * i + 8) = 0 := by
  rw [readDWord, readWord_freshRing_zero sorted (by omega) (by omega),
    readWord_freshRing_zero sorted (by omega) (by omega)]
  rfl

/-- A byte outside a fresh ring. -/
theorem readByte_freshRing_outside (hn : 0 < n) (outside : a < lo ∨ lo + 16 * n ≤ a) :
    readByte (freshRing m lo n) a = readByte m a := by
  rw [readByte_freshRing m lo n a sorted hn, if_neg (by omega), if_neg (by omega)]

end

/-! ### The registers of a queue with a fresh ring -/

/-- The queue's registers after a ring of `n` slots at `base` was made (40 R162), as one update. -/
def State.freshQueue (s : State) (kd : Kind) (q : Nat) (base : DWord) (n : Nat) : State :=
  match kd with
  | .rx => s.modRx q fun r => { r with
      alloc := true, base := base, n := n, cur := 0, inflight := List.replicate n .empty, pend := 0, elapsed := 0 }
  | .tx => s.modTx q fun t => { t with
      alloc := true, base := base, n := n, fill := 0, dirty := 0, free := n, stopped := false,
      inflight := List.replicate n .empty, phase := .readyForWork, pend := 0, elapsed := 0 }

@[simp] theorem State.freshQueue_mem : (s.freshQueue kd q base n).mem = s.mem := by cases kd <;> rfl

@[simp] theorem State.freshQueue_liveRings : (s.freshQueue kd q base n).liveRings = s.liveRings := by cases kd <;> rfl

@[simp] theorem State.freshQueue_env : (s.freshQueue kd q base n).env = s.env := by cases kd <;> rfl

/-- The five register events of `RING_INIT`, one after another (40 R162; log 40). -/
theorem State.ringRegisters_eq_freshQueue (hq : q < 8) :
    ((((s.setRing kd q base n).clearInflight kd q n).freshCursors kd q n).setCoalescer kd q 0 0).setAlloc kd q true =
      s.freshQueue kd q base n := by
  cases kd with
  | rx => simp only [State.setRing, State.clearInflight, State.freshCursors, State.setCoalescer, State.setAlloc,
      State.modRx_modRx _ _ _ _ hq, State.freshQueue]
  | tx => simp only [State.setRing, State.clearInflight, State.freshCursors, State.setCoalescer, State.setAlloc,
      State.modTx_modTx _ _ _ _ hq, State.freshQueue]

/-- The state after a ring was made: the allocator's answer taken, its ring live and written, its queue's registers
fresh (40 R162; 45 R331). -/
def State.ringMade (s : State) (kd : Kind) (q : Nat) (base : DWord) (n : Nat) (rest : List (Option DWord)) : State :=
  (((s.modEnv fun e => { e with ringAnswers := rest }).setRings ((base.toNat, 16 * n) :: s.liveRings)).setMem
    (freshRing s.mem base.toNat n)).freshQueue kd q base n

/-! ### The operation -/

/-- A queue of either kind that exists is one of the 8 register blocks (log 9). -/
theorem State.lt_of_hasQueue (exist : s.hasQueue kd q = true) : q < 8 := by
  cases kd with
  | rx =>
    have lt : q < min 8 s.rxCountField := of_decide_eq_true exist
    exact Nat.lt_of_lt_of_le lt (Nat.min_le_left _ _)
  | tx => exact State.lt_of_hasQueue_tx exist

/-- A legal ring has a slot (00 R9). -/
theorem pos_of_legalRingSize (legal : legalRingSize n = true) : 0 < n := by
  simp only [legalRingSize, List.any_eq_true, beq_iff_eq] at legal
  obtain ⟨k, -, rfl⟩ := legal
  exact Nat.two_pow_pos k

section
variable {rest : List (Option DWord)} (exist : s.hasQueue kd q = true) (unallocated : s.ringAlloc kd q = false)
  (legal : legalRingSize (s.bank c).arg0.toNat = true)
include exist unallocated legal

/-- Inside its precondition the operation is `RING_INIT` of its operand's size (30 R128, 40 R164). -/
theorem ends_progRingInit {r : Result} {t : State} :
    (progRingInit c kd q).Ends s r t ↔ (ringInit kd q (s.bank c).arg0.toNat fun done =>
      Prog.done (if done then .ok else .errOutOfMemory)).Ends s r t := by
  rw [progRingInit, Prog.ends_askDWord, Prog.ends_askFlag, if_neg (by simp [exist]),
    Prog.ends_require (by simp [unallocated, legal])]

/-- With memory from the allocator (40 R162; 45 R331). -/
theorem ends_progRingInit_some (answer : s.env.ringAnswers = some base :: rest) (aligned : base.toNat % 16 = 0)
    (fresh : s.freshRange base.toNat (16 * (s.bank c).arg0.toNat) = true) :
    (progRingInit c kd q).Ends s (Result.only .ok) (s.ringMade kd q base (s.bank c).arg0.toNat rest) := by
  rw [ends_progRingInit exist unallocated legal,
    Prog.ends_ringInit_some answer aligned fresh (pos_of_legalRingSize legal),
    State.ringRegisters_eq_freshQueue (State.lt_of_hasQueue exist)]
  exact Prog.ends_done.2 ⟨rfl, rfl⟩

/-- Without memory (40 R163). -/
theorem ends_progRingInit_none (answer : s.env.ringAnswers = none :: rest) :
    (progRingInit c kd q).Ends s (Result.only .errOutOfMemory) (s.modEnv fun e => { e with ringAnswers := rest }) := by
  rw [ends_progRingInit exist unallocated legal, Prog.ends_ringInit_none answer]
  exact Prog.ends_done.2 ⟨rfl, rfl⟩

end

/-! ### The obligation -/

/-- Settles O25: the program runs to `ringMade`, whose memory is a fresh ring's and whose one change among the queues is
the queue of the operation. -/
theorem ringInitMakesRing : Obligations.RingInitMakesRing := by
  intro ctx q k s n wf exist unallocated legal
  obtain ⟨sorted, -⟩ := wf
  have lt := State.lt_of_hasQueue exist
  rw [exec_eq_execute]
  refine ⟨fun rest answer => execute_of_ends (ends_progRingInit_none exist unallocated legal answer),
    fun base rest answer aligned fresh => ?_⟩
  have mem : (s.ringMade k q.toNat base n rest).mem = freshRing s.mem base.toNat n := State.freshQueue_mem
  refine ⟨_, execute_of_ends (ends_progRingInit_some exist unallocated legal answer aligned fresh),
    fun i hi => ?_, fun x outside => ?_, ?_, ?_, State.freshQueue_liveRings, State.freshQueue_env⟩
  · rw [mem]
    exact ⟨readWord_freshRing_lstatus sorted hi, readWord_freshRing_reserved sorted hi,
      readDWord_freshRing_addr sorted hi⟩
  · rw [mem]
    exact readByte_freshRing_outside sorted (pos_of_legalRingSize legal) outside
  · rintro rfl
    exact ⟨rfl, State.rx_modRx_same _ _ _ lt, fun q' other => State.rx_modRx_other _ _ other.symm⟩
  · rintro rfl
    exact ⟨rfl, State.tx_modTx_same _ _ _ lt, fun q' other => State.tx_modTx_other _ _ other.symm⟩

end Sys2Proof.Machine

/-! SUPPORT and PROOFS. The operations of the recycle pool (spec 41): `POOL_INIT`, `POOL_TEARDOWN`, `ACQUIRE` and
`RELEASE` of the host, each as what its program comes to, with the state at its end as one update. -/

namespace Sys2Proof.Machine

variable {s : State} {c j n : Nat} {h x : Handle} {b : Buffer} {l : List Handle} {r : Result} {o : Owner}

/-! ### Owners set one after another -/

theorem State.buf_setOwner_same (s : State) (h : Handle) (o : Owner) :
    (s.setOwner h o).buf h = (s.buf h).map fun b => { b with owner := o } := State.buf_modBuf_same s h _

theorem State.buf_setOwner_other (s : State) (o : Owner) (ne : x ≠ h) : (s.setOwner h o).buf x = s.buf x :=
  State.buf_modBuf_other s _ ne

/-- A change of an entry that does not see its owner, after the owner was set. -/
theorem State.modBuf_setOwner (s : State) (h : Handle) (o : Owner) {f : Buffer → Buffer}
    (blind : ∀ b : Buffer, f { b with owner := o } = f b) : (s.setOwner h o).modBuf h f = s.modBuf h f := by
  have table : changeBuf (changeBuf s.bufs h fun b => { b with owner := o }) h f = changeBuf s.bufs h f := by
    rw [Prog.changeBuf_changeBuf]
    exact congrArg (changeBuf s.bufs h) (funext blind)
  exact congrArg s.setBufs table

/-- The last owner set is the one that counts. -/
theorem State.setOwner_setOwner (s : State) (h : Handle) (o o' : Owner) :
    (s.setOwner h o).setOwner h o' = s.setOwner h o' := s.modBuf_setOwner h o fun _ => rfl

/-- `Free` does not see who owned the handle (45 R333). -/
theorem State.freeBuf_setOwner (s : State) (h : Handle) (o : Owner) : (s.setOwner h o).freeBuf h = s.freeBuf h :=
  s.modBuf_setOwner h o fun _ => rfl

/-- Whether a buffer is recycleable does not depend on an owner (10 R31). -/
theorem State.recycleable_setOwner (s : State) (h x : Handle) (o : Owner) :
    (s.setOwner h o).recycleable x = s.recycleable x := by
  have capacity : (s.setOwner h o).bufferCapacity = s.bufferCapacity := rfl
  rw [State.recycleable, State.recycleable, capacity]
  by_cases eq : x = h
  · subst eq
    rw [State.buf_setOwner_same]
    cases s.buf x <;> rfl
  · rw [State.buf_setOwner_other s o eq]

/-- The owner that a swap gave a handle does not count once another is set (41 R183). -/
theorem State.owned_swapLists (s : State) (c : Nat) (x : Handle) (o : Owner) :
    ((s.swapLists c).buf x).map (fun b => { b with owner := o }) = (s.buf x).map fun b => { b with owner := o } := by
  rw [State.buf_swapLists]
  by_cases inGlobal : x ∈ s.pool.global
  · rw [if_pos inGlobal, Option.map_map]
    rfl
  · rw [if_neg inGlobal]
    split
    · rw [Option.map_map]
      rfl
    · rfl

/-- Of a swap, the other handles do not see that one handle's owner was set before. -/
theorem State.buf_swapLists_setOwner_other (s : State) (c : Nat) (o : Owner) (ne : x ≠ h) :
    ((s.setOwner h o).swapLists c).buf x = (s.swapLists c).buf x := by
  simp only [State.buf_swapLists, State.buf_setOwner_other s o ne]
  rfl

/-! ### The banks when an operation on a list of the pool has ended -/

theorem State.bank_swapLists_same (s : State) (hc : c < 16) :
    (s.swapLists c).bank c = { s.bank c with localList := s.pool.global } :=
  (State.bank_swapLists s c c).trans (State.bank_modBank_same s c _ hc)

theorem State.bank_swapLists_other (s : State) (ne : j ≠ c) : (s.swapLists c).bank j = s.bank j :=
  (State.bank_swapLists s c j).trans (State.bank_modBank_other s _ ne.symm)

/-- The end of an operation that set its context's list to `l` and gave the handle `h` its owner (41 R185, R189). -/
def State.listResult (s : State) (c : Nat) (l : List Handle) (h : Handle) (o : Owner) (r : Result) : State :=
  ((s.setLocal c l).setOwner h o).finish c r

/-- The bank of the operation: its result, and its list (30 R129). -/
theorem State.bank_listResult_same (s : State) (hc : c < 16) :
    (s.listResult c l h o r).bank c = { s.bank c with
      status := r.code, rval0 := r.rval0.getD (s.bank c).rval0, rval1 := r.rval1.getD (s.bank c).rval1, busy := false,
      op := none, localList := l } := by
  have list : ((s.setLocal c l).setOwner h o).bank c = { s.bank c with localList := l } :=
    State.bank_modBank_same s c (fun b => { b with localList := l }) hc
  rw [State.listResult, State.finish, State.bank_modBank_same _ _ _ hc, list]

theorem State.bank_listResult_other (s : State) (ne : j ≠ c) : (s.listResult c l h o r).bank j = s.bank j :=
  (State.bank_modBank_other _ _ ne.symm).trans
    (State.bank_modBank_other s (fun b => { b with localList := l }) ne.symm)

theorem State.buf_listResult_same (s : State) :
    (s.listResult c l h o r).buf h = (s.buf h).map fun b => { b with owner := o } := State.buf_setOwner_same s h o

theorem State.buf_listResult_other (s : State) (ne : x ≠ h) : (s.listResult c l h o r).buf x = s.buf x :=
  State.buf_setOwner_other s o ne

/-! ### The local lists emptied (41 R181, R182) -/

/-- The banks with the lists of the first `n` contexts empty. -/
def localsCleared (v : Vector Bank 16) (n : Nat) : Vector Bank 16 :=
  (List.range n).foldl (fun v c => bankSet v c { bankGet v Bank.reset c with localList := [] }) v

/-- The state with the lists of the first `n` contexts empty. -/
def State.clearLocals (s : State) (n : Nat) : State := { s with banks := localsCleared s.banks n }

theorem State.clearLocals_pool (s : State) (n : Nat) : (s.clearLocals n).pool = s.pool := rfl

theorem State.clearLocals_succ (s : State) (n : Nat) : s.clearLocals (n + 1) = (s.clearLocals n).setLocal n [] := by
  rw [State.clearLocals, localsCleared, List.range_succ, List.foldl_append]
  rfl

/-- The lists of the contexts emptied one after another. -/
theorem State.foldl_setLocal_nil (s : State) (n : Nat) :
    (List.range n).foldl (fun s c => s.setLocal c []) s = s.clearLocals n := by
  induction n with
  | zero => rfl
  | succ n ih => rw [List.range_succ, List.foldl_append, ih, State.clearLocals_succ, List.foldl_cons, List.foldl_nil]

/-- Setting a list changes the list alone, of that bank alone; a bank that does not exist has an empty list. -/
theorem State.bank_setLocal_nil (s : State) (c j : Nat) :
    (s.setLocal c []).bank j = { s.bank j with localList := if c = j then [] else (s.bank j).localList } := by
  rw [State.setLocal]
  by_cases eq : c = j
  · subst eq
    by_cases exist : c < 16
    · rw [State.bank_modBank_same s c _ exist, if_pos rfl]
    · have missing : ∀ u : State, u.bank c = Bank.reset := fun _ => dif_neg exist
      rw [missing, missing, if_pos rfl]
      rfl
  · rw [State.bank_modBank_other s _ eq, if_neg eq]

theorem State.bank_clearLocals (s : State) (n j : Nat) :
    (s.clearLocals n).bank j = { s.bank j with localList := if j < n then [] else (s.bank j).localList } := by
  induction n with
  | zero => rfl
  | succ n ih =>
    rw [State.clearLocals_succ, State.bank_setLocal_nil, ih]
    by_cases last : n = j
    · rw [if_pos last, if_pos (by omega : j < n + 1)]
    · have same : j < n + 1 ↔ j < n := by omega
      simp only [if_neg last, same]

/-! ### The pool purged (41 R182) -/

/-- The handles on the lists of the first `n` contexts. -/
def State.localHandles (s : State) (n : Nat) : List Handle := (List.range n).flatMap fun c => (s.bank c).localList

/-- The handles of the pool, in the order in which a purge frees them. -/
def State.pooledHandles (s : State) : List Handle := s.localHandles s.params.numCpus ++ s.pool.global

theorem State.mem_pooledHandles : h ∈ s.pooledHandles ↔
    h ∈ s.pool.global ∨ ∃ c, c < s.params.numCpus ∧ h ∈ (s.bank c).localList := by
  simp [State.pooledHandles, State.localHandles, or_comm]

/-- Freeing buffers and emptying the local lists do not meet. -/
theorem State.freeAll_clearLocals (s : State) (hs : List Handle) (n : Nat) :
    hs.foldl State.freeBuf (s.clearLocals n) = (hs.foldl State.freeBuf s).clearLocals n :=
  List.foldl_hom (g₁ := State.freeBuf) (fun u => u.clearLocals n) fun _ _ => rfl

/-- Freeing buffers and a change of the device registers do not meet. -/
theorem State.freeAll_modDev (s : State) (hs : List Handle) (f : Device → Device) :
    hs.foldl State.freeBuf (s.modDev f) = (hs.foldl State.freeBuf s).modDev f :=
  List.foldl_hom (g₁ := State.freeBuf) (fun u => u.modDev f) fun _ _ => rfl

/-- Each context's list freed and emptied, one context after another: the lists' handles freed in that order, and the
lists empty. -/
theorem State.purgeLocals_eq (s : State) (n : Nat) :
    (List.range n).foldl (fun s c => ((s.bank c).localList.foldl State.freeBuf s).setLocal c []) s =
      ((s.localHandles n).foldl State.freeBuf s).clearLocals n := by
  induction n with
  | zero => rfl
  | succ n ih =>
    have list : ((((s.localHandles n).foldl State.freeBuf s).clearLocals n).bank n).localList =
        (s.bank n).localList := by
      rw [State.bank_clearLocals, if_neg (Nat.lt_irrefl n), State.freeAll_eq]
      rfl
    have handles : s.localHandles (n + 1) = s.localHandles n ++ (s.bank n).localList := by
      simp [State.localHandles, List.range_succ]
    rw [List.range_succ, List.foldl_append, ih, List.foldl_cons, List.foldl_nil, list, handles, List.foldl_append,
      State.clearLocals_succ, State.freeAll_clearLocals]

/-- A purge changes the buffer table, the local lists and the global list, and nothing else. -/
theorem State.purged_eq (s : State) : s.purged =
    ((s.setBufs (s.pooledHandles.foldl State.freeBuf s).bufs).clearLocals s.params.numCpus).modPool
      fun p => { p with global := [] } := by
  have pool : ((s.localHandles s.params.numCpus).foldl State.freeBuf s).pool = s.pool := by
    rw [State.freeAll_eq]
    rfl
  rw [State.purged, State.purgeLocals_eq, State.clearLocals_pool, pool, State.freeAll_clearLocals, ← List.foldl_append,
    ← State.pooledHandles, State.freeAll_eq]
  rfl

/-- A purge and a change of the device registers do not meet. -/
theorem State.purged_modDev (s : State) (f : Device → Device) : (s.modDev f).purged = s.purged.modDev f := by
  have bufs : ((s.modDev f).pooledHandles.foldl State.freeBuf (s.modDev f)).bufs =
      (s.pooledHandles.foldl State.freeBuf s).bufs := by
    rw [State.freeAll_modDev]
    rfl
  rw [State.purged_eq, State.purged_eq, bufs]
  rfl

/-- The entry of a handle after a purge. -/
theorem State.buf_purged (s : State) (x : Handle) : s.purged.buf x = (s.pooledHandles.foldl State.freeBuf s).buf x := by
  rw [State.purged_eq]
  rfl

/-- A handle that is not live stays so while handles are freed (45 R333). -/
theorem State.live_freeAll_of_dead (hs : List Handle) (dead : s.live x = false) :
    (hs.foldl State.freeBuf s).live x = false := by
  refine List.foldlRecOn (motive := fun u : State => u.live x = false) hs _ dead fun u hu y _ => ?_
  by_cases eq : x = y
  · subst eq
    rw [State.live] at hu
    rw [State.live, State.freeBuf, State.buf_modBuf_same]
    cases hb : u.buf x with
    | none => rfl
    | some b =>
      rw [hb] at hu
      exact (Bool.and_eq_false_iff).2 (.inl hu)
  · exact (State.live_of_buf (State.buf_modBuf_other u _ eq)).trans hu

/-- A handle with one reference is not live once it was freed (45 R333). -/
theorem State.live_freeAll_of_oneRef {hs : List Handle} (mem : x ∈ hs)
    (one : (s.buf x).map (·.info.refs) = some 1) : (hs.foldl State.freeBuf s).live x = false := by
  induction hs generalizing s with
  | nil => cases mem
  | cons y hs ih =>
    by_cases eq : x = y
    · subst eq
      refine State.live_freeAll_of_dead hs ?_
      obtain ⟨b, hb, refs⟩ := Option.map_eq_some_iff.1 one
      simp [State.live, State.freeBuf, hb, refs]
    · refine ih ((List.mem_cons.1 mem).resolve_left eq) ?_
      rw [State.freeBuf, State.buf_modBuf_other s _ eq, one]

/-! ### Controller-level operations (44 R279) -/

/-- What `leave` writes is what stood there where `enter` passed. -/
theorem State.modDev_leave (idle : s.dev.ctlBusy = false) : (s.modDev fun d => { d with ctlBusy := false }) = s :=
  State.modDev_self s _ (by rw [← idle])

/-- An operation turned away by `enter`, or by its own test after which it leaves. -/
theorem ends_enter_errState {f : State → Bool} {p : Prog} (away : s.dev.ctlBusy = true ∨ f s = true)
    (blind : f (s.modDev fun d => { d with ctlBusy := true }) = f s) :
    (enter (Prog.askFlag f fun bad => if bad then leave .errState else p)).Ends s (Result.only .errState) s := by
  cases busy : s.dev.ctlBusy with
  | true => exact Prog.reaches_enter_busy busy
  | false =>
    have bad : f s = true := away.resolve_left (by simp [busy])
    rw [Prog.ends_enter busy, Prog.ends_askFlag, blind, if_pos bad, Prog.ends_leave]
    exact ⟨State.modDev_leave busy, rfl⟩

/-! ### `POOL_INIT` (41 R181) -/

/-- The state with the pool made: every list empty, the lock free. -/
def State.poolMade (s : State) : State :=
  (s.clearLocals s.params.numCpus).modPool fun _ => { init := true, global := [], lock := .free }

theorem ends_progPoolInit (idle : s.dev.ctlBusy = false) (fresh : s.pool.init = false) :
    progPoolInit.Ends s (Result.only .ok) s.poolMade := by
  rw [progPoolInit, Prog.ends_enter idle, Prog.ends_askFlag, if_neg (by simp [fresh]), Prog.ends_askNat,
    Prog.ends_forEach_set, Prog.ends_set, Prog.ends_set, Prog.ends_leave, State.foldl_setLocal_nil]
  exact ⟨State.modDev_leave (s := s.poolMade) idle, rfl⟩

/-- Settles O19: the pool made, or the operation turned away. -/
theorem poolInitEmpties : Obligations.PoolInitEmpties := by
  intro ctx s _
  rw [exec_eq_execute]
  refine ⟨fun away => execute_of_ends (ends_enter_errState away rfl), fun idle fresh => ?_⟩
  exact ⟨_, execute_of_ends (ends_progPoolInit idle fresh), rfl, State.bank_clearLocals s _, fun _ => rfl, rfl⟩

/-! ### `POOL_TEARDOWN` (41 R182) -/

/-- The state with the pool purged and gone. -/
def State.poolRemoved (s : State) : State := s.purged.modPool fun p => { p with init := false }

theorem State.poolRemoved_eq (s : State) : s.poolRemoved =
    ((s.setBufs (s.pooledHandles.foldl State.freeBuf s).bufs).clearLocals s.params.numCpus).modPool
      fun p => { p with init := false, global := [] } := by
  rw [State.poolRemoved, State.purged_eq]
  rfl

theorem ends_progPoolTeardown (idle : s.dev.ctlBusy = false) (made : s.pool.init = true)
    (down : s.dev.devState = .down) : progPoolTeardown.Ends s (Result.only .ok) s.poolRemoved := by
  have removedIdle : s.poolRemoved.dev.ctlBusy = false := by
    rw [State.poolRemoved_eq]
    exact idle
  rw [progPoolTeardown, Prog.ends_enter idle, Prog.ends_askFlag, if_neg (by simp [made, down]), Prog.ends_poolPurge,
    Prog.ends_set, Prog.ends_leave, State.purged_modDev]
  exact ⟨State.modDev_leave removedIdle, rfl⟩

/-- Settles O20: a purge frees the handles of the pool's lists one after another and empties the lists. -/
theorem poolTeardownFrees : Obligations.PoolTeardownFrees := by
  intro ctx s _
  rw [exec_eq_execute]
  refine ⟨fun away => execute_of_ends (ends_enter_errState ?_ rfl), fun idle made down => ?_⟩
  · simpa using away
  refine ⟨_, execute_of_ends (ends_progPoolTeardown idle made down), ?_, fun c => ?_,
    fun h pooled => ⟨?_, fun one => ?_⟩, fun h notGlobal notLocal => ?_, fun a => ?_, ?_⟩
  · rw [State.poolRemoved_eq]
    rfl
  · rw [State.poolRemoved_eq]
    exact State.bank_clearLocals (s.setBufs _) _ c
  · exact (State.owner_of_buf (State.buf_purged s h)).trans
      (State.owner_freeAll s _ h (State.mem_pooledHandles.2 pooled))
  · exact (State.live_of_buf (State.buf_purged s h)).trans
      (State.live_freeAll_of_oneRef (State.mem_pooledHandles.2 pooled) one)
  · refine (State.buf_purged s h).trans (State.buf_freeAll_other s _ h fun mem => ?_)
    rcases State.mem_pooledHandles.1 mem with inGlobal | ⟨c, hc, inLocal⟩
    · exact notGlobal inGlobal
    · exact notLocal c hc inLocal
  · rw [State.poolRemoved_eq]
    rfl
  · rw [State.poolRemoved_eq]
    rfl

/-! ### `ACQUIRE` (41 R185 to R187) -/

/-- What the host's `ACQUIRE` makes of the handle that the internal form got (41 R185). -/
def acquired : Option Handle → Prog
  | none => Prog.done .errAllocFail
  | some h => Prog.set (fun s => s.setOwner h .stack) (.ret ⟨.ok, some h, none⟩)

theorem progAcquire_eq (c : Nat) : progAcquire c = Prog.askFlag (fun s => s.pool.init) fun made =>
    if !made then Prog.done .errState else acquire c acquired := rfl

theorem ends_acquired_none {t : State} : (acquired none).Ends s r t ↔ s = t ∧ Result.only .errAllocFail = r :=
  Prog.ends_done

theorem ends_acquired_some {t : State} :
    (acquired (some h)).Ends s r t ↔ s.setOwner h .stack = t ∧ (⟨.ok, some h, none⟩ : Result) = r :=
  Prog.ends_set.trans Prog.ends_ret

theorem ends_progAcquire_noPool (noPool : s.pool.init = false) :
    (progAcquire c).Ends s (Result.only .errState) s := by simp [progAcquire_eq, noPool]

section
variable (made : s.pool.init = true)
include made

/-- With a pool `ACQUIRE` is the internal form, and its handle becomes the stack's (41 R185). -/
theorem ends_progAcquire {t : State} : (progAcquire c).Ends s r t ↔ (acquire c acquired).Ends s r t := by
  rw [progAcquire_eq, Prog.ends_askFlag, if_neg (by simp [made])]

/-- From the local list (41 R185). -/
theorem ends_progAcquire_local (list : (s.bank c).localList = h :: l) :
    (progAcquire c).Ends s ⟨.ok, some h, none⟩ ((s.setLocal c l).setOwner h .stack) := by
  rw [ends_progAcquire made, Prog.ends_acquire_local list, ends_acquired_some]
  exact ⟨State.setOwner_setOwner _ _ _ _, rfl⟩

section
variable (empty : (s.bank c).localList = []) (free : s.pool.lock = .free)
include empty free

/-- After one exchange of the two lists (41 R186). -/
theorem ends_progAcquire_swap (hc : c < 16) (global : s.pool.global = h :: l) :
    (progAcquire c).Ends s ⟨.ok, some h, none⟩ (((s.swapLists c).setLocal c l).setOwner h .stack) := by
  rw [ends_progAcquire made, Prog.ends_acquire_swap empty global free hc, ends_acquired_some]
  exact ⟨State.setOwner_setOwner _ _ _ _, rfl⟩

variable (global : s.pool.global = []) {rest : List (Option (Handle × DWord))}
include global

/-- From an allocator without memory (41 R187). -/
theorem ends_progAcquire_none (answer : s.env.bufAnswers = none :: rest) :
    (progAcquire c).Ends s (Result.only .errAllocFail) (s.modEnv fun e => { e with bufAnswers := rest }) := by
  rw [ends_progAcquire made, Prog.ends_acquire_alloc empty global free, Prog.ends_alloc_none answer,
    ends_acquired_none]
  exact ⟨rfl, rfl⟩

/-- From an allocator that answers inside its contract (41 R187; 45 R332). -/
theorem ends_progAcquire_some {a : DWord} (answer : s.env.bufAnswers = some (h, a) :: rest)
    (dead : s.live h = false) (fresh : s.freshRange a.toNat s.bufferCapacity = true) :
    (progAcquire c).Ends s ⟨.ok, some h, none⟩ (((s.modEnv fun e => { e with bufAnswers := rest }).setBufs
      (insertBuf s.bufs h (freshBuffer c s.bufferCapacity a))).setOwner h .stack) := by
  rw [ends_progAcquire made, Prog.ends_acquire_alloc empty global free, Prog.ends_alloc_some answer dead fresh,
    ends_acquired_some]
  exact ⟨rfl, rfl⟩

end

end

/-- Settles O21: the head of the local list, as it stands or after the exchange. -/
theorem acquireTakesPooledBuffer : Obligations.AcquireTakesPooledBuffer := by
  intro ctx s h l hc made
  rw [exec_eq_execute]
  refine ⟨fun list => ?_, fun empty free global => ?_⟩
  · refine ⟨s.listResult ctx.toNat l h .stack ⟨.ok, some h, none⟩,
      execute_of_ends (ends_progAcquire_local made list), State.bank_listResult_same s hc,
      fun c ne => State.bank_listResult_other s ne, State.buf_listResult_same s,
      fun x ne => State.buf_listResult_other s ne, fun _ => rfl, rfl⟩
  · have global' : h ∈ s.pool.global := by simp [global]
    refine ⟨(s.swapLists ctx.toNat).listResult ctx.toNat l h .stack ⟨.ok, some h, none⟩,
      execute_of_ends (ends_progAcquire_swap made empty free hc global), ?_, fun c ne => ?_, ?_, ?_,
      fun x ne mem => ?_, fun x ne out => ?_, fun _ => ?_, ?_⟩
    · rw [State.bank_listResult_same _ hc, State.bank_swapLists_same s hc]
      rfl
    · rw [State.bank_listResult_other _ ne, State.bank_swapLists_other s ne]
    · rw [← empty]
      exact State.pool_swapLists s ctx.toNat
    · rw [State.buf_listResult_same, State.owned_swapLists]
    · rw [State.buf_listResult_other _ ne, State.buf_swapLists, if_pos (by simp [global, mem])]
    · rw [State.buf_listResult_other _ ne, State.buf_swapLists, if_neg (by simp [global, ne, out]),
        if_neg (by simp [empty])]
    · rw [State.listResult, State.swapLists_eq]
      rfl
    · rw [State.listResult, State.swapLists_eq]
      rfl

/-- Settles O22: without a pool, and then the allocator's two answers. -/
theorem acquireAsksAllocator : Obligations.AcquireAsksAllocator := by
  intro ctx s hc
  rw [exec_eq_execute]
  refine ⟨fun noPool => execute_of_ends (ends_progAcquire_noPool noPool), fun made empty free global =>
    ⟨fun rest answer => execute_of_ends (ends_progAcquire_none made empty free global answer),
      fun h a rest answer dead fresh => ?_⟩⟩
  refine ⟨_, execute_of_ends (ends_progAcquire_some made empty free global answer dead fresh),
    State.bank_modBank_same _ _ _ hc, fun c ne => State.bank_modBank_other _ _ ne.symm, ?_, fun x ne => ?_, rfl,
    fun _ => rfl, rfl⟩
  · exact (State.buf_setOwner_same _ h .stack).trans
      (congrArg (Option.map _) ((State.buf_insertBuf s h h _).trans (if_pos rfl)))
  · exact (State.buf_setOwner_other _ .stack ne).trans ((State.buf_insertBuf s h x _).trans (if_neg ne))

/-! ### `RELEASE` (41 R189, R190) -/

theorem releaseVerdict_noPool (noPool : s.pool.init = false) : releaseVerdict h s = .code .errState := by
  simp [releaseVerdict, noPool]

section
variable (made : s.pool.init = true)
include made

/-- There is no step for a handle never described (70 R413). -/
theorem releaseVerdict_unknown (unknown : s.buf h = none) : releaseVerdict h s = .refuse .unknownHandle := by
  simp [releaseVerdict, made, unknown]

theorem releaseVerdict_notStacks (entry : s.buf h = some b) (bad : b.live = false ∨ b.owner ≠ .stack) :
    releaseVerdict h s = .code .errBadArg := by
  simp [releaseVerdict, made, entry, bad]

theorem releaseVerdict_pass (live : s.live h = true) (owner : s.owner h = some .stack) :
    releaseVerdict h s = .pass := by
  obtain ⟨b, entry, stack⟩ := Option.map_eq_some_iff.1 owner
  have alive : b.live = true := by simpa [State.live, entry] using live
  simp [releaseVerdict, made, entry, alive, stack]

end

/-- `RELEASE` turned away by a test changes nothing but its result (41 R189). -/
theorem ends_progRelease_of_code {v : Code} (verdict : releaseVerdict (s.bank c).arg0 s = .code v) (notOk : v ≠ .ok) :
    (progRelease c).Ends s (Result.only v) s := by
  rw [progRelease, Prog.ends_askDWord, (Prog.reaches_gate_code _ _ verdict).ends_iff, if_neg notOk]
  exact Prog.ends_done.2 ⟨rfl, rfl⟩

/-- `RELEASE` whose tests come to no step (70 R413). -/
theorem execute_progRelease_refused {i : Instr} {v : Refusal}
    (verdict : releaseVerdict (s.bank c).arg0 s = .refuse v) : execute i (progRelease c) s = .refused v :=
  execute_of_refused (Prog.reaches_askDWord _ _) (by simp [verdict])

section
variable (pass : releaseVerdict (s.bank c).arg0 s = .pass)
include pass

/-- From its tests on, `RELEASE` is the internal form on a handle that the operation holds (41 R189; 10 R32). -/
theorem ends_progRelease {t : State} : (progRelease c).Ends s r t ↔
    (release c (s.bank c).arg0 (Prog.done .ok)).Ends (s.setOwner (s.bank c).arg0 (.held c)) r t := by
  rw [progRelease, Prog.ends_askDWord, (Prog.reaches_gate_pass _ _ pass).ends_iff, if_pos rfl]

/-- A buffer that is not recycleable, or that neither list has room for, is freed (41 R189). -/
theorem ends_progRelease_free (full : s.recycleable (s.bank c).arg0 = false ∨
      (s.params.recycleMax ≤ (s.bank c).localList.length ∧ s.pool.lock = .free ∧ s.pool.global ≠ [])) :
    (progRelease c).Ends s (Result.only .ok) (s.freeBuf (s.bank c).arg0) := by
  rw [ends_progRelease pass]
  have freed : (Prog.done .ok).Ends ((s.setOwner (s.bank c).arg0 (.held c)).freeBuf (s.bank c).arg0)
      (Result.only .ok) (s.freeBuf (s.bank c).arg0) := Prog.ends_done.2 ⟨State.freeBuf_setOwner s _ _, rfl⟩
  cases fits : s.recycleable (s.bank c).arg0 with
  | false => exact (Prog.ends_release_free ((State.recycleable_setOwner s _ _ _).trans fits)).2 freed
  | true =>
    obtain ⟨long, lock, global⟩ := full.resolve_left (by simp [fits])
    exact (Prog.ends_release_full ((State.recycleable_setOwner s _ _ _).trans fits) long global lock).2 freed

variable (fits : s.recycleable (s.bank c).arg0 = true)
include fits

/-- On a local list with room (41 R189). -/
theorem ends_progRelease_push (room : (s.bank c).localList.length < s.params.recycleMax) :
    (progRelease c).Ends s (Result.only .ok) (s.pushed c (s.bank c).arg0) := by
  rw [ends_progRelease pass, Prog.ends_release_push ((State.recycleable_setOwner s _ _ _).trans fits) room]
  exact Prog.ends_done.2 ⟨State.setOwner_setOwner (s.setLocal c _) _ _ _, rfl⟩

/-- On a full local list, after one exchange with the empty global list (41 R190). -/
theorem ends_progRelease_swap (hc : c < 16) (long : s.params.recycleMax ≤ (s.bank c).localList.length)
    (room : 0 < s.params.recycleMax) (lock : s.pool.lock = .free) (global : s.pool.global = []) :
    (progRelease c).Ends s (Result.only .ok) ((((s.setOwner (s.bank c).arg0 (.held c)).swapLists c).setLocal c
      [(s.bank c).arg0]).setOwner (s.bank c).arg0 (.localList c)) := by
  rw [ends_progRelease pass,
    Prog.ends_release_swap ((State.recycleable_setOwner s _ _ _).trans fits) long room global lock hc]
  exact Prog.ends_done.2 ⟨rfl, rfl⟩

end

/-- Settles O23: the push on the local list, as it stands or after the exchange. -/
theorem releaseRecycles : Obligations.ReleaseRecycles := by
  intro ctx s h hc made live owner fits
  have pass := releaseVerdict_pass made live owner
  rw [exec_eq_execute]
  refine ⟨fun room => ?_, fun long room lock global => ?_⟩
  · refine ⟨s.listResult ctx.toNat (h :: (s.bank ctx.toNat).localList) h (.localList ctx.toNat) (Result.only .ok),
      execute_of_ends (ends_progRelease_push pass fits room), State.bank_listResult_same s hc,
      fun c ne => State.bank_listResult_other s ne, State.buf_listResult_same s,
      fun x ne => State.buf_listResult_other s ne, fun _ => rfl, rfl⟩
  · refine ⟨((s.setOwner h (.held ctx.toNat)).swapLists ctx.toNat).listResult ctx.toNat [h] h (.localList ctx.toNat)
      (Result.only .ok), execute_of_ends (ends_progRelease_swap pass fits hc long room lock global), ?_,
      fun c ne => ?_, State.pool_swapLists _ ctx.toNat, ?_, fun x ne mem => ?_, fun x ne out => ?_, fun _ => ?_, ?_⟩
    · rw [State.bank_listResult_same _ hc, State.bank_swapLists_same _ hc]
      rfl
    · rw [State.bank_listResult_other _ ne, State.bank_swapLists_other _ ne]
      rfl
    · rw [State.buf_listResult_same, State.owned_swapLists, State.buf_setOwner_same, Option.map_map]
      rfl
    · rw [State.buf_listResult_other _ ne, State.buf_swapLists_setOwner_other s _ _ ne, State.buf_swapLists,
        if_neg (by simp [global]), if_pos mem]
    · rw [State.buf_listResult_other _ ne, State.buf_swapLists_setOwner_other s _ _ ne, State.buf_swapLists,
        if_neg (by simp [global]), if_neg out]
    · rw [State.listResult, State.swapLists_eq]
      rfl
    · rw [State.listResult, State.swapLists_eq]
      rfl

/-- Settles O24: the tests one by one, and then a buffer that the pool does not take. -/
theorem releaseFreesOrRefuses : Obligations.ReleaseFreesOrRefuses := by
  intro ctx s h _
  rw [exec_eq_execute]
  refine ⟨fun noPool => ?_, fun made unknown => ?_, fun b made entry => ⟨fun bad => ?_, fun live owner full => ?_⟩⟩
  · exact execute_of_ends (ends_progRelease_of_code (releaseVerdict_noPool noPool) (by decide))
  · exact execute_progRelease_refused (releaseVerdict_unknown made unknown)
  · exact execute_of_ends (ends_progRelease_of_code (releaseVerdict_notStacks made entry bad) (by decide))
  · have pass : releaseVerdict h s = .pass :=
      releaseVerdict_pass made (by simp [State.live, entry, live]) (by simp [State.owner, entry, owner])
    refine ⟨_, execute_of_ends (ends_progRelease_free pass full), ?_, fun x ne => State.buf_modBuf_other s _ ne,
      fun _ => rfl, rfl⟩
    rw [State.freeBuf, State.buf_modBuf_same, entry]
    simp [live]

end Sys2Proof.Machine

/-! SUPPORT. The slots of one frame (spec 40 R161; 42 R206, R208): what its descriptors and its in-flight entries read
as, and that everything outside its slots stays. -/

namespace Sys2Proof.Machine

variable {m m' : List Host.Cell} {a f i j k n base : Nat} {bufs : List Region}

/-! ### Slots of a ring (40 R161) -/

/-- The cursor's own slot. -/
theorem skipIndex_zero (hf : f < n) : skipIndex f 0 n = f := Nat.mod_eq_of_lt hf

/-- Slots counted from a cursor that has itself been moved on the ring. -/
theorem skipIndex_skipIndex : skipIndex (skipIndex f j n) k n = skipIndex f (j + k) n := by
  simp only [skipIndex, Nat.add_assoc, Nat.mod_add_mod]

/-- Slots counted from a cursor that is a sum. -/
theorem skipIndex_add : skipIndex (f + j) k n = skipIndex f (j + k) n := by
  simp only [skipIndex, Nat.add_assoc]

/-- Counting fewer slots than the ring has passes its end once at most. -/
theorem skipIndex_eq_ite (hk : k < n) : skipIndex f k n = if f % n + k < n then f % n + k else f % n + k - n := by
  have cursor : f % n < n := Nat.mod_lt _ (Nat.zero_lt_of_lt hk)
  rw [skipIndex, ← Nat.mod_add_mod]
  split
  · exact Nat.mod_eq_of_lt ‹_›
  · rw [Nat.mod_eq_sub_mod (by omega), Nat.mod_eq_of_lt (by omega)]

/-- Fewer slots than the ring has, counted from one cursor, are distinct. -/
theorem skipIndex_inj (hi : i < n) (hj : j < n) (eq : skipIndex f i n = skipIndex f j n) : i = j := by
  have cursor : f % n < n := Nat.mod_lt _ (Nat.zero_lt_of_lt hi)
  rw [skipIndex_eq_ite hi, skipIndex_eq_ite hj] at eq
  split at eq <;> split at eq <;> omega

/-- The descriptors of distinct slots do not meet (30 R121). -/
theorem slots_apart (ne : i ≠ j) : base + 16 * i + 16 ≤ base + 16 * j ∨ base + 16 * j + 16 ≤ base + 16 * i := by
  omega

/-! ### Descriptors written one after another -/

/-- A word reads as before where its bytes do. -/
theorem readWord_congr (same : ∀ x, a ≤ x → x < a + 4 → readByte m' x = readByte m x) :
    readWord m' a = readWord m a := by
  simp only [readWord, same a (by omega) (by omega), same (a + 1) (by omega) (by omega),
    same (a + 2) (by omega) (by omega), same (a + 3) (by omega) (by omega)]

/-- A doubleword reads as before where its bytes do. -/
theorem readDWord_congr (same : ∀ x, a ≤ x → x < a + 8 → readByte m' x = readByte m x) :
    readDWord m' a = readDWord m a := by
  rw [readDWord, readDWord, readWord_congr fun x _ _ => same x (by omega) (by omega),
    readWord_congr fun x _ _ => same x (by omega) (by omega)]

/-- A descriptor reads as before where its written fields do. -/
theorem descriptor_congr (same : ∀ x, inDescriptor a x → readByte m' x = readByte m x) :
    readWord m' a = readWord m a ∧ readDWord m' (a + 8) = readDWord m (a + 8) :=
  ⟨readWord_congr fun x _ _ => same x (by omega), readDWord_congr fun x _ _ => same x (by omega)⟩

theorem sorted_armed {v : DWord} {w : Word} (sorted : (m.map Prod.fst).Pairwise (· < ·)) :
    ((armed m a v w).map Prod.fst).Pairwise (· < ·) := sorted_writeBytes _ _ _ (sorted_writeBytes _ _ _ sorted)

section
variable {β : Type} (d : β → Nat) (v : β → DWord) (w : β → Word)

/-- Memory after a descriptor was written for every element of a list. -/
def descriptorsWritten (m : List Host.Cell) (l : List β) : List Host.Cell :=
  l.foldl (fun m x => armed m (d x) (v x) (w x)) m

variable {d v w} {l : List β}

theorem sorted_descriptorsWritten (sorted : (m.map Prod.fst).Pairwise (· < ·)) :
    ((descriptorsWritten d v w m l).map Prod.fst).Pairwise (· < ·) := by
  induction l generalizing m with
  | nil => exact sorted
  | cons y l ih => exact ih (sorted_armed sorted)

/-- A byte of none of the descriptors stays. -/
theorem readByte_descriptorsWritten_outside (sorted : (m.map Prod.fst).Pairwise (· < ·))
    (outside : ∀ x ∈ l, ¬ inDescriptor (d x) a) : readByte (descriptorsWritten d v w m l) a = readByte m a := by
  induction l generalizing m with
  | nil => rfl
  | cons y l ih =>
    have apart := outside y (by simp)
    simp only [inDescriptor] at apart
    exact (ih (sorted_armed sorted) fun x hx => outside x (by simp [hx])).trans
      (readByte_armed_outside _ _ _ _ _ sorted (by omega))

/-- A descriptor apart from every other one reads as it was written. -/
theorem read_descriptorsWritten (sorted : (m.map Prod.fst).Pairwise (· < ·))
    (apart : l.Pairwise fun x y => d x + 16 ≤ d y ∨ d y + 16 ≤ d x) {x : β} (hx : x ∈ l) :
    readWord (descriptorsWritten d v w m l) (d x) = w x ∧
      readDWord (descriptorsWritten d v w m l) (d x + 8) = v x := by
  induction l generalizing m with
  | nil => cases hx
  | cons y l ih =>
    obtain ⟨first, apart⟩ := List.pairwise_cons.1 apart
    rcases List.mem_cons.1 hx with rfl | hx
    · obtain ⟨word, dword⟩ := descriptor_congr (m := armed m (d x) (v x) (w x))
        (m' := descriptorsWritten d v w (armed m (d x) (v x) (w x)) l) (a := d x) fun y hy =>
          readByte_descriptorsWritten_outside (sorted_armed sorted) fun z hz => by
            have := first z hz
            simp only [inDescriptor] at hy ⊢
            omega
      exact ⟨word.trans (readWord_armed _ _ _ _ sorted), dword.trans (readDWord_armed _ _ _ _ sorted)⟩
    · exact ih (sorted_armed sorted) apart hx

end

/-! ### The memory of a frame (42 R206, R208) -/

/-- `status` of descriptor `k` of a committed frame of `nbd` in slot `i` (42 R206, R208). -/
def frameStatus (k nbd i n : Nat) : Half := 0x8000 ||| wrapOf i n ||| (if k + 1 = nbd then 0x1800 else 0)

/-- The walk writes every descriptor but the first as it stays. -/
theorem walkStatus_pos {nbd : Nat} (hk : k ≠ 0) : walkStatus k nbd i n = frameStatus k nbd i n := if_neg hk

/-- The commit writes the first descriptor. -/
theorem commitStatus_eq (nbd i n : Nat) : commitStatus nbd i n = frameStatus 0 nbd i n := by
  simp only [commitStatus, frameStatus, Nat.zero_add, eq_comm]

/-- Where the walk writes region `x.2` of a frame from slot `f` (42 R206). -/
def walkAddress (base f n : Nat) (x : Region × Nat) : Nat := base + 16 * skipIndex f x.2 n

/-- What the walk writes as `lstatus` of region `x.2` of a frame of `nbd` (42 R206). -/
def walkWord (f n nbd : Nat) (x : Region × Nat) : Word :=
  lstatusOf (walkStatus x.2 nbd (skipIndex f x.2 n) n) x.1.len

/-- Memory after the walk over some of a frame's regions, each with its number in the frame (42 R206). -/
def walkMemory (m : List Host.Cell) (base f n nbd : Nat) (l : List (Region × Nat)) : List Host.Cell :=
  descriptorsWritten (walkAddress base f n) (fun x => x.1.addr) (walkWord f n nbd) m l

/-- Memory after a frame was committed: the walk, then the first descriptor handed over (42 R206, R208). -/
def frameMemory (m : List Host.Cell) (base f n : Nat) (bufs : List Region) : List Host.Cell :=
  writeWord (walkMemory m base f n bufs.length bufs.zipIdx) (base + 16 * f)
    (lstatusOf (commitStatus bufs.length f n) ((bufs.head?.map (·.len)).getD 0))

theorem sorted_frameMemory (sorted : (m.map Prod.fst).Pairwise (· < ·)) :
    ((frameMemory m base f n bufs).map Prod.fst).Pairwise (· < ·) :=
  sorted_writeBytes _ _ _ (sorted_descriptorsWritten sorted)

/-- A byte of none of the frame's descriptors stays. -/
theorem readByte_frameMemory_outside (sorted : (m.map Prod.fst).Pairwise (· < ·)) (hf : f < n)
    (nonempty : 0 < bufs.length) (outside : ∀ k < bufs.length, ¬ inDescriptor (base + 16 * skipIndex f k n) a) :
    readByte (frameMemory m base f n bufs) a = readByte m a := by
  have first := outside 0 nonempty
  simp only [skipIndex_zero hf, inDescriptor] at first
  refine (readByte_writeBytes_outside _ _ _ _ (sorted_descriptorsWritten sorted) ?_).trans
    (readByte_descriptorsWritten_outside sorted fun x hx => ?_)
  · simp only [wordBytes_length]
    omega
  · exact outside x.2 (List.snd_lt_of_mem_zipIdx hx)

/-- After the walk, a descriptor has its region's address, and the first one not yet its ownership flag (42 R206). -/
theorem read_walkMemory (sorted : (m.map Prod.fst).Pairwise (· < ·)) (fits : bufs.length ≤ n)
    (hk : k < bufs.length) :
    readWord (walkMemory m base f n bufs.length bufs.zipIdx) (base + 16 * skipIndex f k n) =
        lstatusOf (walkStatus k bufs.length (skipIndex f k n) n) bufs[k].len ∧
      readDWord (walkMemory m base f n bufs.length bufs.zipIdx) (base + 16 * skipIndex f k n + 8) = bufs[k].addr := by
  have mem : (bufs[k], k) ∈ bufs.zipIdx := List.mk_mem_zipIdx_iff_getElem?.2 (List.getElem?_eq_getElem hk)
  have apart : bufs.zipIdx.Pairwise fun x y => walkAddress base f n x + 16 ≤ walkAddress base f n y ∨
      walkAddress base f n y + 16 ≤ walkAddress base f n x := by
    refine List.pairwise_iff_getElem.2 fun i j hi hj lt => slots_apart ?_
    rw [List.length_zipIdx] at hi hj
    simp only [List.getElem_zipIdx, Nat.zero_add]
    exact fun eq => Nat.ne_of_lt lt (skipIndex_inj (by omega) (by omega) eq)
  obtain ⟨word, dword⟩ := read_descriptorsWritten (v := fun x : Region × Nat => x.1.addr)
    (w := walkWord f n bufs.length) sorted apart mem
  exact ⟨word, dword⟩

/-- A descriptor of a committed frame: its region's address and length, and its flags (42 R206, R208). -/
theorem read_frameMemory (sorted : (m.map Prod.fst).Pairwise (· < ·)) (hf : f < n) (fits : bufs.length ≤ n)
    (hk : k < bufs.length) :
    readWord (frameMemory m base f n bufs) (base + 16 * skipIndex f k n) =
        lstatusOf (frameStatus k bufs.length (skipIndex f k n) n) bufs[k].len ∧
      readDWord (frameMemory m base f n bufs) (base + 16 * skipIndex f k n + 8) = bufs[k].addr := by
  have walked : ((walkMemory m base f n bufs.length bufs.zipIdx).map Prod.fst).Pairwise (· < ·) :=
    sorted_descriptorsWritten sorted
  obtain ⟨word, dword⟩ := read_walkMemory (base := base) (f := f) sorted fits hk
  by_cases first : k = 0
  · subst first
    have len : (bufs.head?.map (·.len)).getD 0 = bufs[0].len := by
      rw [List.head?_eq_getElem?, List.getElem?_eq_getElem hk]
      rfl
    rw [skipIndex_zero hf] at dword ⊢
    rw [← commitStatus_eq, frameMemory, len]
    exact ⟨readWord_writeWord _ _ _ walked, (readDWord_writeBytes_apart _ _ _ _ walked (by simp)).trans dword⟩
  · have apart := slots_apart (base := base) fun eq : skipIndex f k n = skipIndex f 0 n =>
      first (skipIndex_inj (by omega) (by omega) eq)
    rw [skipIndex_zero hf] at apart
    rw [← walkStatus_pos first]
    exact ⟨(readWord_writeBytes_apart _ _ _ _ walked (by simp; omega)).trans word,
      (readDWord_writeBytes_apart _ _ _ _ walked (by simp; omega)).trans dword⟩

/-! ### The in-flight entries of a frame (42 R208) -/

/-- An in-flight array after one entry was written to slots one after another. -/
theorem getD_foldl_set {β : Type} (l : List TxEntry) (e : TxEntry) (g : β → Nat) (xs : List β) (i : Nat) :
    (xs.foldl (fun l x => l.set (g x) e) l).getD i .empty =
      if i < l.length ∧ i ∈ xs.map g then e else l.getD i .empty := by
  induction xs generalizing l with
  | nil => simp
  | cons x xs ih =>
    rw [List.foldl_cons, ih, List.length_set, List.map_cons]
    by_cases here : i = g x
    · subst here
      by_cases inside : g x < l.length <;> simp [List.getD_eq_getElem?_getD, inside]
    · simp [List.getD_eq_getElem?_getD, List.getElem?_set_ne (Ne.symm here), here]

/-- An in-flight array after a frame of `nbd` descriptors from slot `f` was committed (42 R208). -/
def frameEntries (l : List TxEntry) (h : Handle) (f n nbd : Nat) : List TxEntry :=
  ((List.range (nbd - 1)).foldl (fun l j => l.set (skipIndex f (j + 1) n) (.cont f)) l).set f (.head h nbd)

section
variable {l : List TxEntry} {h : Handle} {nbd : Nat}

theorem length_frameEntries : (frameEntries l h f n nbd).length = l.length := by
  rw [frameEntries, List.length_set]
  induction nbd - 1 with
  | zero => rfl
  | succ k ih => rw [List.range_succ, List.foldl_append, List.foldl_cons, List.foldl_nil, List.length_set, ih]

/-- The entry of the frame's first slot. -/
theorem getD_frameEntries_head (hf : f < l.length) : (frameEntries l h f n nbd).getD f .empty = .head h nbd := by
  have hf : f < (frameEntries l h f n nbd).length := by rwa [length_frameEntries]
  rw [frameEntries, List.length_set] at hf
  rw [frameEntries, List.getD_eq_getElem?_getD, List.getElem?_set_self hf, Option.getD_some]

/-- The entry of another slot is what the slots written before the first one leave. -/
theorem getD_frameEntries_ne (ne : i ≠ f) : (frameEntries l h f n nbd).getD i .empty =
    if i < l.length ∧ i ∈ (List.range (nbd - 1)).map fun j => skipIndex f (j + 1) n then .cont f
    else l.getD i .empty := by
  rw [← getD_foldl_set, frameEntries, List.getD_eq_getElem?_getD, List.getElem?_set_ne ne.symm,
    List.getD_eq_getElem?_getD]

/-- The entries of the frame's other slots. -/
theorem getD_frameEntries_cont (hf : f < n) (len : l.length = n) (fits : nbd ≤ n) (pos : 0 < k) (hk : k < nbd) :
    (frameEntries l h f n nbd).getD (skipIndex f k n) .empty = .cont f := by
  have ne : skipIndex f k n ≠ f := fun eq =>
    Nat.ne_of_gt pos (skipIndex_inj (f := f) (n := n) (by omega) (by omega) (eq.trans (skipIndex_zero hf).symm))
  rw [getD_frameEntries_ne ne, if_pos]
  exact ⟨len ▸ Nat.mod_lt _ (by omega),
    List.mem_map.2 ⟨k - 1, List.mem_range.2 (by omega), by rw [Nat.sub_add_cancel pos]⟩⟩

/-- The entries of all other slots stay. -/
theorem getD_frameEntries_outside (hf : f < n) (nonempty : 0 < nbd) (outside : ∀ k < nbd, i ≠ skipIndex f k n) :
    (frameEntries l h f n nbd).getD i .empty = l.getD i .empty := by
  have ne : i ≠ f := fun eq => outside 0 nonempty (eq.trans (skipIndex_zero hf).symm)
  rw [getD_frameEntries_ne ne, if_neg]
  rintro ⟨-, mem⟩
  obtain ⟨j, hj, eq⟩ := List.mem_map.1 mem
  have lt := List.mem_range.1 hj
  exact outside (j + 1) (by omega) eq.symm

end

end Sys2Proof.Machine

/-! SUPPORT. Frames committed (spec 42 R206, R208, R209, R217): the events of one frame come to one update of the state,
and packets submitted one after another come to a list of frames in the ring. -/

namespace Sys2Proof.Machine

variable {s t u : State} {c q f n : Nat} {h : Handle} {p : Prog}

/-! ### One frame committed (42 R206, R208) -/

/-- The queue after a frame of `nbd` descriptors was committed from its fill cursor (42 R208). -/
def TxQueue.committed (x : TxQueue) (h : Handle) (nbd : Nat) : TxQueue :=
  { x with fill := skipIndex x.fill nbd x.n, free := x.free - nbd,
           inflight := frameEntries x.inflight h x.fill x.n nbd, phase := .doorbell }

/-- The state after a frame with these regions was committed (42 R206, R208, R209). -/
def State.committed (s : State) (q : Nat) (h : Handle) (bufs : List Region) : State :=
  (((s.setMem (frameMemory s.mem (s.tx q).base.toNat (s.tx q).fill (s.tx q).n bufs)).modBuf h fun b =>
    { b with owner := .slot .tx q (s.tx q).fill, mapped := .toDevice }).modTx q fun x =>
      x.committed h bufs.length).modEtx q fun e => { e with idle := false }

/-- A TX queue that frames can be committed to: it exists, its ring can be walked, its cursor is on it, its lock is
free (10 R24, R47). -/
structure State.CanCommit (s : State) (q : Nat) : Prop where
  queue : q < 8
  fill : (s.tx q).fill < (s.tx q).n
  inside : (s.tx q).base.toNat + 16 * (s.tx q).n ≤ addressSpace
  lock : (s.tx q).lock = .free
  length : (s.tx q).inflight.length = (s.tx q).n
  sorted : (s.mem.map Prod.fst).Pairwise (· < ·)

/-- The queue of a frame just committed. -/
theorem State.tx_committed (hq : q < 8) (bufs : List Region) :
    (s.committed q h bufs).tx q = (s.tx q).committed h bufs.length := by
  rw [State.committed, State.tx_modEtx, State.tx_modTx_same _ _ _ hq]
  rfl

/-- After a frame the queue can take the next one. -/
theorem State.CanCommit.committed (ready : s.CanCommit q) (bufs : List Region) :
    (s.committed q h bufs).CanCommit q := by
  have queue := State.tx_committed (s := s) (h := h) ready.queue bufs
  have pos : 0 < (s.tx q).n := Nat.zero_lt_of_lt ready.fill
  refine ⟨ready.queue, ?_, ?_, ?_, ?_, sorted_frameMemory ready.sorted⟩ <;> rw [queue]
  · exact Nat.mod_lt _ pos
  · exact ready.inside
  · exact ready.lock
  · exact length_frameEntries.trans ready.length

/-! ### Its program -/

/-- A slot of a ring lies in the address space. -/
theorem slot_inside {base i : Nat} (inside : base + 16 * n ≤ addressSpace) (hi : i < n) :
    base + 16 * i + 16 ≤ addressSpace := by omega

/-- One descriptor written, address first, then flags and length (42 R206). -/
theorem reaches_writeDescriptor {i : Nat} (v : DWord) (w : Word)
    (inside : (s.tx q).base.toNat + 16 * i + 16 ≤ addressSpace) :
    (Prog.write64 (fun s => s.desc .tx q i + 8) v <| Prog.write32 (fun s => s.desc .tx q i) w p).Reaches s p
      (s.setMem (armed s.mem ((s.tx q).base.toNat + 16 * i) v w)) :=
  (Prog.reaches_write64 v inside).trans (Prog.reaches_write32 w (Nat.le_trans (Nat.add_le_add_left (by decide) _) inside))

/-- The walk over a frame's regions (42 R206). -/
theorem reaches_walk {nbd : Nat} (hn : 0 < n) (inside : (s.tx q).base.toNat + 16 * n ≤ addressSpace)
    (l : List (Region × Nat)) :
    (Prog.forEach l (fun rj rest =>
      Prog.write64 (fun s => s.desc .tx q (skipIndex f rj.2 n) + 8) rj.1.addr <|
      Prog.write32 (fun s => s.desc .tx q (skipIndex f rj.2 n))
        (lstatusOf (walkStatus rj.2 nbd (skipIndex f rj.2 n) n) rj.1.len) rest) p).Reaches s p
      (s.setMem (walkMemory s.mem (s.tx q).base.toNat f n nbd l)) := by
  induction l generalizing s with
  | nil => exact .refl
  | cons x l ih =>
    exact (reaches_writeDescriptor _ _ (slot_inside inside (Nat.mod_lt (f + x.2) hn))).trans (ih (s := s.setMem _) inside)

/-- Entries of the in-flight array written one after another are one update of the queue. -/
theorem State.foldl_setTxEntry {β : Type} (hq : q < 8) (g : β → Nat) (e : TxEntry) (xs : List β) :
    xs.foldl (fun s x => s.setTxEntry q (g x) e) s =
      s.modTx q fun t => { t with inflight := xs.foldl (fun l x => l.set (g x) e) t.inflight } := by
  induction xs generalizing s with
  | nil => exact (State.modTx_self _ _ _ rfl).symm
  | cons x xs ih =>
    rw [List.foldl_cons, ih, State.setTxEntry, State.modTx_modTx _ _ _ _ hq]
    rfl

/-- The doorbell of one queue wakes its ring (42 R209; 45 R325). -/
theorem State.doorbell_one (hq : q < 8) : s.doorbell (1 <<< q) = s.modEtx q fun e => { e with idle := false } := by
  have one : ∀ q < 8, bitIndexes (1 <<< q) = [q] := by decide
  rw [State.doorbell, one q hq]
  rfl

/-- The address of a descriptor does not depend on the lock of its queue. -/
theorem State.desc_setLock_tx (hq : q < 8) (l : Lock) (i : Nat) :
    (s.setLock (.tx q) l).desc .tx q i = (s.tx q).base.toNat + 16 * i := by
  simp only [State.desc, State.ringBase, State.setLock, State.tx_modTx_same _ _ _ hq]

/-! Memory, an owner and the engine's registers are written apart from the queues. -/

theorem State.setMem_modTx (g : TxQueue → TxQueue) (m : List Host.Cell) :
    (s.modTx q g).setMem m = (s.setMem m).modTx q g := rfl

theorem State.setOwner_modTx (g : TxQueue → TxQueue) (o : Owner) :
    (s.modTx q g).setOwner h o = (s.setOwner h o).modTx q g := rfl

theorem State.modEtx_modTx (g : TxQueue → TxQueue) (e : EngineTx → EngineTx) :
    (s.modTx q g).modEtx q e = (s.modEtx q e).modTx q g := rfl

/-- Where the state a program comes to is another expression of a state, it comes to that state. -/
theorem Prog.Reaches.of_eq {r : Prog} (steps : p.Reaches s r t) (eq : t = u) : p.Reaches s r u := eq ▸ steps

/-- Entries written one after another, event by event. -/
theorem reaches_setTxEntries {β : Type} (hq : q < 8) (g : β → Nat) (e : TxEntry) (xs : List β) :
    (Prog.forEach xs (fun x rest => Prog.set (fun s => s.setTxEntry q (g x) e) rest) p).Reaches s p
      (s.modTx q fun t => { t with inflight := xs.foldl (fun l x => l.set (g x) e) t.inflight }) :=
  (Prog.reaches_forEach xs _ (fun s x => s.setTxEntry q (g x) e) (fun _ _ _ _ => Prog.reaches_set _) p s).of_eq
    (State.foldl_setTxEntry hq g e xs)

/-- The commit of a frame (42 R208, R209), event by event. -/
theorem reaches_submitCommit (hq : q < 8) (lock : (s.tx q).lock = .free) {nbd len : Nat}
    (inside : (s.tx q).base.toNat + 16 * f + 4 ≤ addressSpace) :
    (submitCommit c q h f n nbd len p).Reaches s p
      ((((s.setMem (writeWord s.mem ((s.tx q).base.toNat + 16 * f) (lstatusOf (commitStatus nbd f n) len))).setOwner h
        (.slot .tx q f)).modTx q fun x => { x with
          fill := skipIndex f nbd n, free := x.free - nbd, inflight := frameEntries x.inflight h f n nbd,
          phase := .doorbell }).modEtx q fun e => { e with idle := false }) := by
  have desc := State.desc_setLock_tx (s := s) hq (.held c) f
  refine Prog.Reaches.of_eq ((Prog.reaches_lock (n := .tx q) c lock).trans <| Prog.reaches_writeBarrier.trans <|
    (Prog.reaches_write32 _ (desc ▸ inside)).trans <| Prog.reaches_writeBarrier.trans <|
    (reaches_setTxEntries hq (fun j => skipIndex f (j + 1) n) _ _).trans <|
    (Prog.reaches_set _).trans <| (Prog.reaches_set _).trans <| (Prog.reaches_set _).trans <|
    (Prog.reaches_set _).trans <| (Prog.reaches_set _).trans <| Prog.reaches_unlock _) ?_
  rw [State.doorbell_one hq, desc]
  simp only [State.setLock, State.setPhase, State.setTxEntry, State.setMem_modTx, State.setOwner_modTx,
    State.modEtx_modTx, State.modTx_modTx _ _ _ _ hq, State.modTx_mem]
  exact State.modTx_congr (by simp [frameEntries, State.setOwner, lock])

/-- A frame of a packet of the table, regions and all (42 R206, R208, R209), event by event. -/
theorem reaches_submitFrame (ready : s.CanCommit q) :
    (submitFrame c q h p).Reaches s p (s.committed q h (s.regions h)) := by
  have pos : 0 < (s.tx q).n := Nat.zero_lt_of_lt ready.fill
  have slot := slot_inside ready.inside ready.fill
  refine Prog.Reaches.of_eq ((Prog.reaches_askNat _ _).trans <| (Prog.reaches_askNat _ _).trans <|
    (Prog.reaches_askRegions _ _).trans <| (Prog.reaches_set _).trans <|
    (reaches_walk (s := s.setMapped h .toDevice) pos ready.inside _).trans <|
    reaches_submitCommit (s := (s.setMapped h .toDevice).setMem _) ready.queue ready.lock
      (Nat.le_trans (Nat.add_le_add_left (by decide) _) slot)) ?_
  have table : changeBuf (changeBuf s.bufs h fun b => { b with mapped := .toDevice }) h
      (fun b => { b with owner := .slot .tx q (s.tx q).fill }) =
      changeBuf s.bufs h fun b => { b with owner := .slot .tx q (s.tx q).fill, mapped := .toDevice } :=
    Prog.changeBuf_changeBuf _ _ _ _
  calc _ = (((s.setMem (frameMemory s.mem (s.tx q).base.toNat (s.tx q).fill (s.tx q).n (s.regions h))).setBufs
        (changeBuf (changeBuf s.bufs h fun b => { b with mapped := .toDevice }) h
          fun b => { b with owner := .slot .tx q (s.tx q).fill })).modTx q fun x =>
        x.committed h (s.regions h).length).modEtx q fun e => { e with idle := false } := rfl
    _ = _ := by
      rw [table]
      rfl

/-! ### Frames one after another (42 R206, R208, R215, R217) -/

/-- The descriptors that a list of packets needs (42 R202, R217). -/
def framesTotal (fs : List (Handle × BufInfo)) : Nat := (fs.map fun e => requiredOf e.2).sum

theorem framesTotal_cons (e : Handle × BufInfo) (fs : List (Handle × BufInfo)) :
    framesTotal (e :: fs) = requiredOf e.2 + framesTotal fs := List.sum_cons

/-- On the ring that queue `q` has in `s`, the state `t` holds the frame of a packet from slot `f` on: the descriptors
of its regions, its in-flight entries, and its buffer (42 R206, R208). -/
structure State.HoldsFrame (s t : State) (q f : Nat) (e : Handle × BufInfo) : Prop where
  descriptors : ∀ k, (hk : k < e.2.bufs.length) →
    readDWord t.mem (s.desc .tx q (skipIndex f k (s.tx q).n) + 8) = e.2.bufs[k].addr ∧
      readWord t.mem (s.desc .tx q (skipIndex f k (s.tx q).n)) =
        lstatusOf (frameStatus k e.2.bufs.length (skipIndex f k (s.tx q).n) (s.tx q).n) e.2.bufs[k].len
  head : t.txEntry q (skipIndex f 0 (s.tx q).n) = .head e.1 e.2.bufs.length
  cont : ∀ k, 0 < k → k < e.2.bufs.length →
    t.txEntry q (skipIndex f k (s.tx q).n) = .cont (skipIndex f 0 (s.tx q).n)
  buffer : t.buf e.1 = some { live := true, info := e.2, owner := .slot .tx q (skipIndex f 0 (s.tx q).n),
                              mapped := .toDevice }

/-- From `s` to `t` packets were committed to queue `q` as frames, one after another from the fill cursor: where their
slots, entries and buffers are, and what is left as it was (42 R206, R208 to R210, R217). -/
structure State.FramesCommitted (s t : State) (q : Nat) (fs : List (Handle × BufInfo)) : Prop where
  frames : ∀ j, (hj : j < fs.length) → s.HoldsFrame t q ((s.tx q).fill + framesTotal (fs.take j)) fs[j]
  bytes : ∀ a, (∀ k < framesTotal fs, ¬ inDescriptor (s.desc .tx q (skipIndex (s.tx q).fill k (s.tx q).n)) a) →
    readByte t.mem a = readByte s.mem a
  entries : ∀ i, (∀ k < framesTotal fs, i ≠ skipIndex (s.tx q).fill k (s.tx q).n) → t.txEntry q i = s.txEntry q i
  queue : t.tx q = { s.tx q with fill := skipIndex (s.tx q).fill (framesTotal fs) (s.tx q).n,
                                 free := (s.tx q).free - framesTotal fs, inflight := (t.tx q).inflight,
                                 phase := (t.tx q).phase }
  length : (t.tx q).inflight.length = (s.tx q).inflight.length
  engine : t.etx q = { s.etx q with idle := if fs = [] then (s.etx q).idle else false }
  otherQueues : ∀ q', q' ≠ q → t.tx q' = s.tx q' ∧ t.etx q' = s.etx q'
  otherBuffers : ∀ y, y ∉ fs.map Prod.fst → t.buf y = s.buf y
  frame : t = { s with mem := t.mem, txq := t.txq, engTx := t.engTx, bufs := t.bufs }

/-- Packets that can be committed one after another: the queue is ready for frames and has the slots, the packets are
distinct, live, as described, and complete (42 R201, R202, R217). -/
structure State.FramesReady (s : State) (q : Nat) (fs : List (Handle × BufInfo)) : Prop where
  queue : s.CanCommit q
  fits : framesTotal fs ≤ (s.tx q).n
  distinct : (fs.map Prod.fst).Nodup
  entry : ∀ e ∈ fs, ∃ b, s.buf e.1 = some b ∧ b.live = true ∧ b.info = e.2
  complete : ∀ e ∈ fs, wellFormedPacket e.2 = true

/-- A complete packet has as many regions as descriptors, one at least (42 R201, R202). -/
theorem length_of_wellFormedPacket {b : BufInfo} (complete : wellFormedPacket b = true) :
    b.bufs.length = requiredOf b ∧ 0 < b.bufs.length := by
  simp only [wellFormedPacket, Bool.and_eq_true, decide_eq_true_eq] at complete
  obtain ⟨⟨nonempty, length⟩, -⟩ := complete
  refine ⟨length, ?_⟩
  rw [length, requiredOf]
  omega

/-- The ring goes on holding a frame whose slots and buffer are left as they are. -/
theorem State.HoldsFrame.of_same {e : Handle × BufInfo} (holds : s.HoldsFrame t q f e)
    (nonempty : 0 < e.2.bufs.length)
    (bytes : ∀ k < e.2.bufs.length, ∀ a, inDescriptor (s.desc .tx q (skipIndex f k (s.tx q).n)) a →
      readByte u.mem a = readByte t.mem a)
    (entries : ∀ k < e.2.bufs.length, u.txEntry q (skipIndex f k (s.tx q).n) = t.txEntry q (skipIndex f k (s.tx q).n))
    (buffer : u.buf e.1 = t.buf e.1) : s.HoldsFrame u q f e := by
  refine ⟨fun k hk => ?_, (entries 0 nonempty).trans holds.head,
    fun k pos hk => (entries k hk).trans (holds.cont k pos hk), buffer.trans holds.buffer⟩
  obtain ⟨word, dword⟩ := descriptor_congr (bytes k hk)
  rw [word, dword]
  exact holds.descriptors k hk

/-- A frame on the same ring, its slots counted from a cursor on it that was moved. -/
theorem State.HoldsFrame.of_cursor {e : Handle × BufInfo} {g : Nat} (holds : t.HoldsFrame u q g e)
    (base : (t.tx q).base = (s.tx q).base) (size : (t.tx q).n = (s.tx q).n)
    (slot : ∀ k, skipIndex g k (s.tx q).n = skipIndex f k (s.tx q).n) : s.HoldsFrame u q f e := by
  obtain ⟨descriptors, head, cont, buffer⟩ := holds
  simp only [State.desc, State.ringBase, base, size, slot] at descriptors head cont buffer
  exact ⟨descriptors, head, cont, buffer⟩

section
variable {e : Handle × BufInfo} {fs : List (Handle × BufInfo)}

/-- The in-flight entries after a frame was committed. -/
theorem State.txEntry_committed (hq : q < 8) (bufs : List Region) (i : Nat) :
    (s.committed q h bufs).txEntry q i =
      (frameEntries (s.tx q).inflight h (s.tx q).fill (s.tx q).n bufs.length).getD i .empty := by
  rw [State.txEntry, State.tx_committed hq]
  rfl

/-- A frame just committed is in the ring. -/
theorem State.holdsFrame_committed (ready : s.FramesReady q [e]) :
    s.HoldsFrame (s.committed q e.1 e.2.bufs) q (s.tx q).fill e := by
  obtain ⟨length, -⟩ := length_of_wellFormedPacket (ready.complete e (by simp))
  obtain ⟨b, entry, live, info⟩ := ready.entry e (by simp)
  have hq := ready.queue.queue
  have hf := ready.queue.fill
  have fits : e.2.bufs.length ≤ (s.tx q).n := by simpa [framesTotal, length] using ready.fits
  refine ⟨fun k hk => (read_frameMemory ready.queue.sorted hf fits hk).symm, ?_, fun k pos hk => ?_, ?_⟩
  · rw [State.txEntry_committed hq, skipIndex_zero hf]
    exact getD_frameEntries_head (ready.queue.length ▸ hf)
  · rw [State.txEntry_committed hq, skipIndex_zero hf]
    exact getD_frameEntries_cont hf ready.queue.length fits pos hk
  · rw [skipIndex_zero hf]
    refine (State.buf_modBuf_same _ _ _).trans ?_
    rw [State.buf_setMem, entry, ← live, ← info]
    rfl

/-- One packet committed as a frame. -/
theorem State.framesCommitted_one (ready : s.FramesReady q [e]) :
    s.FramesCommitted (s.committed q e.1 e.2.bufs) q [e] := by
  obtain ⟨length, nonempty⟩ := length_of_wellFormedPacket (ready.complete e (by simp))
  have hq := ready.queue.queue
  have hf := ready.queue.fill
  have total : framesTotal [e] = e.2.bufs.length := by simp [framesTotal, length]
  have queue := State.tx_committed (s := s) (h := e.1) hq e.2.bufs
  refine ⟨fun j hj => ?_, fun a outside => ?_, fun i outside => ?_, ?_, ?_, ?_, fun q' ne => ⟨?_, ?_⟩,
    fun y hy => ?_, rfl⟩
  · obtain rfl : j = 0 := by simpa using hj
    exact State.holdsFrame_committed ready
  · exact readByte_frameMemory_outside ready.queue.sorted hf nonempty (total ▸ outside)
  · rw [State.txEntry_committed hq]
    exact getD_frameEntries_outside hf nonempty (total ▸ outside)
  · rw [queue, total]
    rfl
  · rw [queue]
    exact length_frameEntries
  · rw [State.committed, State.etx_modEtx_same _ _ _ hq]
    rfl
  · rw [State.committed, State.tx_modEtx, State.tx_modTx_other _ _ ne.symm]
    rfl
  · rw [State.committed, State.etx_modEtx_other _ _ ne.symm]
    rfl
  · exact State.buf_modBuf_other _ _ (by simpa using hy)

/-- No packet committed. -/
theorem State.framesCommitted_nil (ready : s.CanCommit q) : s.FramesCommitted s q [] where
  frames j hj := absurd hj (Nat.not_lt_zero j)
  bytes _ _ := rfl
  entries _ _ := rfl
  queue := by rw [framesTotal, List.map_nil, List.sum_nil, skipIndex_zero ready.fill]; rfl
  length := rfl
  engine := rfl
  otherQueues _ _ := ⟨rfl, rfl⟩
  otherBuffers _ _ := rfl
  frame := rfl

/-- A packet committed, and then the others. -/
theorem State.FramesCommitted.cons (complete : e.2.bufs.length = requiredOf e.2) (nonempty : 0 < e.2.bufs.length)
    (fits : framesTotal (e :: fs) ≤ (s.tx q).n) (distinct : e.1 ∉ fs.map Prod.fst)
    (first : s.FramesCommitted t q [e]) (others : t.FramesCommitted u q fs) : s.FramesCommitted u q (e :: fs) := by
  have total : framesTotal [e] = requiredOf e.2 := by simp [framesTotal]
  have cursor : (t.tx q).fill = skipIndex (s.tx q).fill (requiredOf e.2) (s.tx q).n := by rw [first.queue, total]
  have base : (t.tx q).base = (s.tx q).base := by rw [first.queue]
  have size : (t.tx q).n = (s.tx q).n := by rw [first.queue]
  have desc : ∀ i, t.desc .tx q i = s.desc .tx q i := fun i => by simp only [State.desc, State.ringBase, base]
  have slot : ∀ k, skipIndex (t.tx q).fill k (t.tx q).n =
      skipIndex (s.tx q).fill (requiredOf e.2 + k) (s.tx q).n := fun k => by
    rw [cursor, size]
    exact skipIndex_skipIndex
  rw [framesTotal_cons] at fits
  have apart : ∀ k < e.2.bufs.length, ∀ k' < framesTotal fs,
      skipIndex (s.tx q).fill k (s.tx q).n ≠ skipIndex (t.tx q).fill k' (t.tx q).n := fun k hk k' hk' eq => by
    rw [slot] at eq
    have := skipIndex_inj (by omega) (by omega) eq
    omega
  refine ⟨fun j hj => ?_, fun a outside => ?_, fun i outside => ?_, ?_, others.length.trans first.length, ?_,
    fun q' ne => ?_, fun y hy => ?_, ?_⟩
  · cases j with
    | zero =>
      have holds : s.HoldsFrame t q (s.tx q).fill e := first.frames 0 (by simp)
      refine holds.of_same nonempty (fun k hk a ha => others.bytes a fun k' hk' => ?_)
        (fun k hk => others.entries _ (apart k hk)) (others.otherBuffers _ distinct)
      have disjoint := slots_apart (base := (s.tx q).base.toNat) (apart k hk k' hk')
      simp only [inDescriptor, State.desc, State.ringBase, base] at ha ⊢
      omega
    | succ j =>
      have hj : j < fs.length := by simpa using hj
      refine (others.frames j hj).of_cursor base size fun k => ?_
      rw [skipIndex_add, ← size, slot, size, List.take_succ_cons, framesTotal_cons, skipIndex_add, Nat.add_assoc]
  · rw [framesTotal_cons] at outside
    refine (others.bytes a fun k hk => ?_).trans (first.bytes a fun k hk => outside k (by omega))
    rw [slot, desc]
    exact outside _ (by omega)
  · rw [framesTotal_cons] at outside
    refine (others.entries i fun k hk => ?_).trans (first.entries i fun k hk => outside k (by omega))
    rw [slot]
    exact outside _ (by omega)
  · rw [others.queue, slot, framesTotal_cons, first.queue, total, Nat.sub_sub]
  · rw [others.engine, first.engine]
    simp
  · exact ⟨(others.otherQueues q' ne).1.trans (first.otherQueues q' ne).1,
      (others.otherQueues q' ne).2.trans (first.otherQueues q' ne).2⟩
  · simp only [List.map_cons, List.mem_cons, not_or] at hy
    exact (others.otherBuffers y hy.2).trans (first.otherBuffers y (by simpa using hy.1))
  · rw [others.frame, first.frame]

/-- The first of the packets can be committed by itself. -/
theorem State.FramesReady.head (ready : s.FramesReady q (e :: fs)) : s.FramesReady q [e] where
  queue := ready.queue
  fits := by
    have fits := ready.fits
    rw [framesTotal_cons] at fits ⊢
    exact Nat.le_trans (Nat.add_le_add_left (Nat.zero_le _) _) fits
  distinct := by simp
  entry x hx := ready.entry x (by simp_all)
  complete x hx := ready.complete x (by simp_all)

/-- After the first of the packets was committed, the others can be. -/
theorem State.FramesReady.tail (ready : s.FramesReady q (e :: fs)) :
    (s.committed q e.1 e.2.bufs).FramesReady q fs := by
  obtain ⟨new, distinct⟩ := List.nodup_cons.1 ready.distinct
  have committed := State.framesCommitted_one ready.head
  refine ⟨ready.queue.committed _, ?_, distinct, fun x hx => ?_, fun x hx => ready.complete x (by simp [hx])⟩
  · have fits := ready.fits
    rw [framesTotal_cons] at fits
    rw [State.tx_committed ready.queue.queue]
    exact Nat.le_trans (Nat.le_add_left _ _) fits
  · have ne : x.1 ≠ e.1 := fun eq => new (eq ▸ List.mem_map_of_mem hx)
    rw [committed.otherBuffers x.1 (by simpa using ne)]
    exact ready.entry x (by simp [hx])

/-- Packets submitted one after another are committed one after another (42 R206, R208, R217). -/
theorem reaches_submitFrames (ready : s.FramesReady q fs) :
    ∃ t, (Prog.forEach (fs.map Prod.fst) (submitFrame c q) p).Reaches s p t ∧ s.FramesCommitted t q fs := by
  induction fs generalizing s with
  | nil => exact ⟨s, .refl, State.framesCommitted_nil ready.queue⟩
  | cons e fs ih =>
    obtain ⟨t, steps, others⟩ := ih ready.tail
    obtain ⟨b, entry, -, info⟩ := ready.entry e (by simp)
    obtain ⟨length, nonempty⟩ := length_of_wellFormedPacket (ready.complete e (by simp))
    obtain ⟨new, -⟩ := List.nodup_cons.1 ready.distinct
    have regions : s.regions e.1 = e.2.bufs := by simp [State.regions, entry, info]
    refine ⟨t, .trans (regions ▸ reaches_submitFrame ready.queue) steps, ?_⟩
    exact .cons length nonempty ready.fits new (State.framesCommitted_one ready.head) others

/-- The queue after frames were committed and its phase is what it was. -/
theorem State.FramesCommitted.queue_of_phase (committed : s.FramesCommitted t q fs)
    (phase : (t.tx q).phase = (s.tx q).phase) :
    t.tx q = { s.tx q with fill := skipIndex (s.tx q).fill (framesTotal fs) (s.tx q).n,
                           free := (s.tx q).free - framesTotal fs, inflight := (t.tx q).inflight } :=
  committed.queue.trans (by rw [phase])

end

end Sys2Proof.Machine

/-! SUPPORT and PROOFS. `SUBMIT` and `SUBMIT_SEG` of packets that fit (spec 42 R203, R206 to R210, R213, R215 to R217):
each runs to a list of frames committed from the state in which it holds its packet. -/

namespace Sys2Proof.Machine

variable {s t : State} {c q : Nat} {h : Handle} {b : Buffer} {fs segs : List (Handle × BufInfo)}
  {rest : List SegmentAnswer}

/-! ### The phase of the queue (10 R41) -/

/-- The queue after a write of its phase. -/
theorem State.tx_setPhase (hq : q < 8) (p : TxPhase) : (s.setPhase q p).tx q = { s.tx q with phase := p } :=
  State.tx_modTx_same s q (fun x => { x with phase := p }) hq

/-- The last of two writes of the phase stands. -/
theorem State.setPhase_setPhase (hq : q < 8) (p p' : TxPhase) : (s.setPhase q p).setPhase q p' = s.setPhase q p' :=
  State.modTx_modTx s q _ _ hq

/-- Whether frames can be committed does not depend on the phase of their queue. -/
theorem State.FramesReady.setPhase (ready : s.FramesReady q fs) (p : TxPhase) : (s.setPhase q p).FramesReady q fs := by
  obtain ⟨⟨hq, fill, inside, lock, length, sorted⟩, fits, distinct, entry, complete⟩ := ready
  have queue := State.tx_setPhase (s := s) hq p
  exact ⟨⟨hq, by rwa [queue], by rwa [queue], by rwa [queue], by rwa [queue], sorted⟩, by rwa [queue], distinct, entry,
    complete⟩

/-- Frames in the ring do not depend on the phase of their queue. -/
theorem State.HoldsFrame.of_phases {f : Nat} {e : Handle × BufInfo} {p : TxPhase} (hq : q < 8)
    (holds : (s.setPhase q p).HoldsFrame t q f e) (p' : TxPhase) : s.HoldsFrame (t.setPhase q p') q f e := by
  have entry : ∀ i, (t.setPhase q p').txEntry q i = t.txEntry q i := fun i => by
    rw [State.txEntry, State.tx_setPhase hq]
    rfl
  obtain ⟨descriptors, head, cont, buffer⟩ := holds
  simp only [State.desc, State.ringBase, State.tx_setPhase hq] at descriptors head cont buffer
  exact ⟨descriptors, (entry _).trans head, fun k pos hk => (entry _).trans (cont k pos hk), buffer⟩

/-- Frames committed between two writes of the queue's phase. -/
theorem State.FramesCommitted.of_phases {p : TxPhase} (hq : q < 8)
    (committed : (s.setPhase q p).FramesCommitted t q fs) (p' : TxPhase) :
    s.FramesCommitted (t.setPhase q p') q fs := by
  obtain ⟨frames, bytes, entries, queue, length, engine, otherQueues, otherBuffers, frame⟩ := committed
  have before := State.tx_setPhase (s := s) hq p
  have after := State.tx_setPhase (s := t) hq p'
  simp only [State.desc, State.ringBase, State.txEntry, before] at frames bytes entries queue length
  refine ⟨fun j hj => (frames j hj).of_phases hq p', bytes, fun i outside => ?_, ?_, ?_, engine, fun q' ne => ?_,
    otherBuffers, ?_⟩
  · rw [State.txEntry, after]
    exact entries i outside
  · rw [after, queue]
  · rw [after]
    exact length
  · obtain ⟨tx, etx⟩ := otherQueues q' ne
    rw [State.setPhase, State.tx_modTx_other _ _ ne.symm] at tx
    exact ⟨(State.tx_modTx_other _ _ ne.symm).trans tx, etx⟩
  · rw [frame]
    rfl

/-- The lock of a queue taken and given back changes nothing. -/
theorem State.setLock_setLock_tx (c : Nat) (hq : q < 8) (free : (s.tx q).lock = .free) :
    (s.setLock (.tx q) (.held c)).setLock (.tx q) .free = s := by
  simp only [State.setLock, State.modTx_modTx _ _ _ _ hq]
  exact State.modTx_self _ _ _ (by simp [← free])

/-- A queue between operations can have frames committed to it (10 R24). -/
theorem State.canCommit_of_usable (wf : Memory.wf s.mem) (usable : s.txUsable q) (free : (s.tx q).lock = .free) :
    s.CanCommit q := by
  obtain ⟨⟨exist, -, -, inside⟩, fill, -, -, length⟩ := usable
  exact ⟨State.lt_of_hasQueue_tx exist, fill, inside, free, length, wf.1⟩

/-! ### `SUBMIT` -/

/-- `SUBMIT` of a packet that fits runs to its frame committed, with the queue ready again (42 R203, R206, R208). -/
theorem ends_progSubmit_fits
    (ready : (s.setOwner (s.bank c).arg0 (.submitted c)).FramesReady q [((s.bank c).arg0, b.info)])
    (pass : submitVerdict (s.hasQueue .tx q) q (s.bank c).arg0 s = .pass) (hb : s.buf (s.bank c).arg0 = some b)
    (fits : requiredOf b.info ≤ (s.tx q).free) :
    ∃ t : State, (progSubmit c q).Ends s (Result.only .ok) t ∧ (t.tx q).phase = .readyForWork ∧
      (s.setOwner (s.bank c).arg0 (.submitted c)).FramesCommitted t q [((s.bank c).arg0, b.info)] := by
  have hq := ready.queue.queue
  have taken := State.tx_takePacket (s := s) (h := (s.bank c).arg0) c hq
  have free : ((s.takePacket c q (s.bank c).arg0).tx q).lock = .free := by rw [taken]; exact ready.queue.lock
  have need : s.required (s.bank c).arg0 = requiredOf b.info := by simp [State.required, hb]
  have phase := State.setPhase_setPhase (s := s.setOwner (s.bank c).arg0 (.submitted c)) hq .spaceCheck .descriptorWrite
  obtain ⟨t, steps, committed⟩ := reaches_submitFrames (c := c)
    (p := Prog.set (fun s => s.setPhase q .readyForWork) (Prog.done .ok)) (ready.setPhase .descriptorWrite)
  refine ⟨t.setPhase q .readyForWork, ?_, by rw [State.tx_setPhase hq], committed.of_phases hq _⟩
  rw [progSubmit, Prog.ends_askDWord, Prog.ends_submitGate_pass pass, if_neg (by simp), Prog.ends_askNat,
    Prog.ends_lock (n := .tx q) free, Prog.ends_askFlag, if_neg, Prog.ends_unlock, State.setLock_setLock_tx c hq free,
    Prog.ends_set]
  · refine (Prog.Reaches.ends_iff (phase ▸ steps)).2 ?_
    rw [Prog.ends_set, Prog.ends_done]
    exact ⟨rfl, rfl⟩
  · rw [Prog.required_takePacket, need]
    simp only [State.setLock, State.tx_modTx_same _ _ _ hq, taken]
    exact fun full => Nat.not_lt.2 fits (of_decide_eq_true full)

/-- Settles O28: the packet is the one frame committed from the state that holds it. -/
theorem submitCommitsFrame : Obligations.SubmitCommitsFrame := by
  intro ctx q s b h x nbd slot wf usable up ready free hb live owner complete fits
  obtain ⟨length, -⟩ := length_of_wellFormedPacket complete
  have can := State.canCommit_of_usable wf usable free
  obtain ⟨⟨exist, -⟩, -, -, freeSlots, -⟩ := usable
  have pass : submitVerdict (s.hasQueue .tx q.toNat) q.toNat h s = .pass :=
    Prog.submitVerdict_pass.2 ⟨exist, b, hb, live, owner, ready, up, complete⟩
  have total : framesTotal [(h, b.info)] = nbd := by simp [framesTotal, length, nbd]
  have framesReady : (s.setOwner h (.submitted ctx.toNat)).FramesReady q.toNat [(h, b.info)] := {
    queue := ⟨can.queue, can.fill, can.inside, can.lock, can.length, can.sorted⟩
    fits := total ▸ Nat.le_trans fits freeSlots
    distinct := by simp
    entry := by simpa [State.buf_setOwner_same, hb] using live
    complete := by simpa using complete }
  obtain ⟨t, ends, phase, committed⟩ := ends_progSubmit_fits framesReady pass hb (length ▸ fits)
  obtain ⟨descriptors, head, cont, buffer⟩ := committed.frames 0 (by simp)
  have first : skipIndex (x.fill + 0) 0 x.n = x.fill := skipIndex_zero can.fill
  rw [exec_eq_execute]
  refine ⟨_, execute_of_ends ends, descriptors, fun a outside => committed.bytes a (total ▸ outside), ?_,
    committed.length.trans can.length, first ▸ head, fun k pos hk => (cont k pos hk).trans (congrArg _ first),
    fun i outside => committed.entries i (total ▸ outside), committed.otherQueues, committed.engine, ?_,
    fun y ne => ?_, committed.frame⟩
  · exact (committed.queue_of_phase (phase.trans ready.symm)).trans (by rw [total]; rfl)
  · rw [← live] at buffer
    exact buffer.trans (congrArg (fun i => some { b with owner := .slot .tx q.toNat i, mapped := .toDevice }) first)
  · exact (committed.otherBuffers y (by simpa using ne)).trans (State.buf_setOwner_other s _ ne)

/-! ### `SUBMIT_SEG` -/

/-- After the collaborator's answer, but for the queue's phase: the packet held, the answer used up, the segments in the
table (42 R216; log 43). -/
def State.segmentsHeld (s : State) (c : Nat) (h : Handle) (segs : List (Handle × BufInfo))
    (rest : List SegmentAnswer) : State :=
  ((s.setOwner h (.submitted c)).modEnv fun e => { e with segAnswers := rest }).setBufs
    (segmentsAdded (s.setOwner h (.submitted c)).bufs c segs)

/-- The queue is in its space check meanwhile (42 R215). -/
theorem State.segmented_eq : s.segmented c q h segs rest = (s.segmentsHeld c h segs rest).setPhase q .spaceCheck := by
  rw [State.segmented, State.addSegments_eq]
  rfl

/-- The entry of a segment: live, as the collaborator built it, held by the operation (42 R216). -/
theorem State.buf_segmentsHeld (distinct : (segs.map Prod.fst).Nodup) {e : Handle × BufInfo} (he : e ∈ segs) :
    (s.segmentsHeld c h segs rest).buf e.1 = some { live := true, info := e.2, owner := .held c, mapped := .none } :=
  (congrArg (State.buf · e.1) (State.addSegments_eq (s.setOwner h (.submitted c)) c segs).symm).trans
    (State.buf_addSegments _ _ distinct he)

/-- Of the other entries, the packet's alone has changed. -/
theorem State.buf_segmentsHeld_other {y : Handle} (hy : y ∉ segs.map Prod.fst) :
    (s.segmentsHeld c h segs rest).buf y = (s.setOwner h (.submitted c)).buf y :=
  (congrArg (State.buf · y) (State.addSegments_eq (s.setOwner h (.submitted c)) c segs).symm).trans
    (State.buf_addSegments_other _ _ hy)

/-- The segments of an answer inside the contract can be committed one after another where they fit (42 R216, R217). -/
theorem State.framesReady_segments (can : s.CanCommit q) (ok : segmentsOk s segs = true)
    (fits : framesTotal segs ≤ (s.tx q).n) : (s.segmentsHeld c h segs rest).FramesReady q segs := by
  have distinct := (segmentsOk_fresh ok).1
  simp only [segmentsOk, Bool.and_eq_true, List.all_eq_true] at ok
  obtain ⟨⟨-, each⟩, -⟩ := ok
  refine ⟨⟨can.queue, can.fill, can.inside, can.lock, can.length, can.sorted⟩, fits, distinct,
    fun e he => ⟨_, State.buf_segmentsHeld distinct he, rfl, rfl⟩, fun e he => ?_⟩
  obtain ⟨⟨⟨-, complete⟩, -⟩, -⟩ := each e he
  exact complete

/-- `SUBMIT_SEG` whose segments all fit runs to their frames committed and the packet freed, with the queue ready again
(42 R215, R217). -/
theorem ends_progSubmitSeg_fits (can : s.CanCommit q)
    (pass : submitVerdict (s.segInRange c q) q (s.bank c).arg0 s = .pass)
    (answer : s.env.segAnswers = ⟨segs, true⟩ :: rest) (ok : segmentsOk s segs = true)
    (size : framesTotal segs ≤ (s.tx q).n) (fits : framesTotal segs ≤ (s.tx q).free) :
    ∃ t : State, (progSubmitSeg c q).Ends s (Result.only .ok) (t.freeBuf (s.bank c).arg0) ∧
      (t.tx q).phase = .readyForWork ∧ (s.segmentsHeld c (s.bank c).arg0 segs rest).FramesCommitted t q segs := by
  have hq := can.queue
  have distinct := (segmentsOk_fresh ok).1
  have queue := State.tx_segmented (s := s) (c := c) (h := (s.bank c).arg0) (segs := segs) (rest := rest) hq
  have free : ((s.segmented c q (s.bank c).arg0 segs rest).tx q).lock = .free := by rw [queue]; exact can.lock
  have held : segmentsOk (s.takePacket c q (s.bank c).arg0) segs = true := (segmentsOk_takePacket segs).trans ok
  have ready := State.framesReady_segments (c := c) (h := (s.bank c).arg0) (rest := rest) can ok size
  obtain ⟨t, steps, committed⟩ := reaches_submitFrames (c := c)
    (p := Prog.free (s.bank c).arg0 <| Prog.set (fun s => s.setPhase q .readyForWork) (Prog.done .ok))
    (ready.setPhase .descriptorWrite)
  refine ⟨t.setPhase q .readyForWork, ?_, by rw [State.tx_setPhase hq], committed.of_phases hq _⟩
  rw [State.segInRange] at pass
  rw [progSubmitSeg, Prog.ends_askDWord, Prog.ends_askDWord, Prog.ends_submitGate_pass pass, if_neg (by simp),
    Prog.ends_segment (s := s.takePacket c q (s.bank c).arg0) (a := ⟨segs, true⟩) answer held, if_neg (by simp)]
  rw [← State.segmented, Prog.ends_askNat, Prog.ends_lock (n := .tx q) free, Prog.ends_askFlag, if_neg,
    Prog.ends_unlock, State.setLock_setLock_tx c hq free, Prog.ends_set, State.segmented_eq,
    State.setPhase_setPhase hq]
  · refine steps.ends_iff.2 ?_
    rw [Prog.ends_free, Prog.ends_set, Prog.ends_done]
    exact ⟨rfl, rfl⟩
  · rw [State.segmented, State.required_addSegments _ _ distinct, ← State.segmented]
    simp only [State.setLock, State.tx_modTx_same _ _ _ hq, queue]
    exact fun full => Nat.not_lt.2 fits (of_decide_eq_true full)

/-- Settles O30: the segments are the frames committed from the state that holds packet and segments, and the packet,
none of them, is freed. -/
theorem submitSegCommitsAll : Obligations.SubmitSegCommitsAll := by
  intro ctx q s b segs rest h m x total slot wf usable up ready free hb live owner complete least most answer ok fits
  have can := State.canCommit_of_usable wf usable free
  obtain ⟨⟨exist, -⟩, -, -, freeSlots, -⟩ := usable
  have pass : submitVerdict (s.segInRange ctx.toNat q.toNat) q.toNat h s = .pass :=
    Prog.submitVerdict_pass.2 ⟨State.segInRange_iff.2 ⟨exist, least, most⟩, b, hb, live, owner, ready, up, complete⟩
  obtain ⟨t, ends, phase, committed⟩ :=
    ends_progSubmitSeg_fits can pass answer ok (Nat.le_trans fits freeSlots) fits
  have packet : h ∉ segs.map Prod.fst := fun mem => by simpa [State.live, hb, live] using (segmentsOk_fresh ok).2 h mem
  have held : t.buf h = some { b with owner := .submitted ctx.toNat } := by
    rw [committed.otherBuffers h packet, State.buf_segmentsHeld_other packet, State.buf_setOwner_same, hb]
    rfl
  rw [exec_eq_execute]
  refine ⟨_, execute_of_ends ends, fun j hj => ?_, committed.bytes, committed.entries,
    committed.queue_of_phase (phase.trans ready.symm), committed.length.trans can.length, committed.engine,
    committed.otherQueues, ?_, fun y ne new => ?_, congrArg State.env committed.frame, ?_⟩
  · obtain ⟨descriptors, head, cont, buffer⟩ := committed.frames j hj
    have ne : segs[j].1 ≠ h := fun eq => packet (eq ▸ List.mem_map_of_mem (List.getElem_mem hj))
    exact ⟨descriptors, head, cont, (State.buf_modBuf_other _ _ ne).trans buffer⟩
  · rw [State.freeBuf, State.buf_modBuf_same, held]
    simp [live]
  · rw [State.freeBuf, State.buf_modBuf_other _ _ ne, committed.otherBuffers y new, State.buf_segmentsHeld_other new,
      State.buf_setOwner_other s _ ne]
  · rw [committed.frame]
    rfl

end Sys2Proof.Machine

/-! SUPPORT and PROOFS. The DMA engine (spec 45 R320, R322 to R327): when a step of it is enabled, what memory holds
after a write-back, and what each of its moves comes to. -/

namespace Sys2Proof.Machine

variable {s : State} {q a buf : Nat} {errs : Half} {bytes : List Byte} {w : Word} {m : Move} {ms : List Move}

/-! ### A move of the engine as a step -/

/-- A step whose move is no command of the host is that move, after it has left the agenda (45 R343). -/
theorem step_of_noCommand (move : s.agenda = m :: ms) (noCommand : commandOf m = none) :
    step s = performMove m (s.setAgenda ms) := by
  simp only [step, move, noCommand]

/-! ### The enabled engine (45 R320) -/

theorem State.engineRxEnabled_iff : s.engineRxEnabled = true ↔
    s.dev.dmactrl.getLsbD 1 = true ∧ s.dev.macctrl.getLsbD 0 = true ∧ s.dev.stopAcked = false := by
  simp [State.engineRxEnabled, and_assoc]

theorem State.engineTxEnabled_iff : s.engineTxEnabled = true ↔
    s.dev.dmactrl.getLsbD 1 = true ∧ s.dev.macctrl.getLsbD 1 = true ∧ s.dev.stopAcked = false := by
  simp [State.engineTxEnabled, and_assoc]

/-- Of a control register that is not 0 one of the two bits is set. -/
theorem getLsbD_of_ne_zero {v : BitVec 2} (ne : v ≠ 0) : v.getLsbD 0 = true ∨ v.getLsbD 1 = true := by
  revert v
  decide

/-- The engine is stopped: both control registers are 0, or it has acknowledged a stop (45 R320, R326). -/
def State.engineStopped (s : State) : Prop := (s.dev.dmactrl = 0 ∧ s.dev.macctrl = 0) ∨ s.dev.stopAcked = true

section
variable (stopped : s.engineStopped)
include stopped

theorem State.engineStopped.rx : s.engineRxEnabled = false :=
  Bool.eq_false_iff.2 fun on => by
    obtain ⟨dma, -, running⟩ := State.engineRxEnabled_iff.1 on
    rcases stopped with ⟨zero, -⟩ | acked
    · simp [zero] at dma
    · simp [acked] at running

theorem State.engineStopped.tx : s.engineTxEnabled = false :=
  Bool.eq_false_iff.2 fun on => by
    obtain ⟨dma, -, running⟩ := State.engineTxEnabled_iff.1 on
    rcases stopped with ⟨zero, -⟩ | acked
    · simp [zero] at dma
    · simp [acked] at running

/-- No stop is left to acknowledge. -/
theorem State.engineStopped.noStop : ¬ (s.dev.dmactrl = 3 ∧ s.dev.stopAcked = false) := by
  rintro ⟨stop, running⟩
  rcases stopped with ⟨zero, -⟩ | acked
  · simp [zero] at stop
  · simp [acked] at running

end

/-! ### Moves that are not enabled (log 17) -/

theorem dmaRxFill_disabled (off : s.engineRxEnabled = false) : dmaRxFill q errs bytes s = .next s := by
  simp [dmaRxFill, off]

theorem dmaTxConsume_disabled (off : s.engineTxEnabled = false) : dmaTxConsume q errs s = .next s := by
  simp [dmaTxConsume, off]

theorem dmaPollTick_disabled (off : s.engineTxEnabled = false) : dmaPollTick q s = s := by
  simp [dmaPollTick, off]

theorem dmaIdleUpdate_disabled {v : BitVec 2} (rx : s.engineRxEnabled = false) (tx : s.engineTxEnabled = false) :
    dmaIdleUpdate v s = s := by
  simp [dmaIdleUpdate, rx, tx]

/-- No step of a stopped engine changes anything (45 R320, R326). -/
theorem step_of_engineStopped (move : s.agenda = m :: ms) (stopped : (s.setAgenda ms).engineStopped)
    (engine : (∃ q errs bytes, m = .rxFill q errs bytes) ∨ (∃ q errs, m = .txConsume q errs) ∨
      (∃ q, m = .pollTick q) ∨ (∃ b, m = .stopAck b) ∨ ∃ v, m = .idleUpdate v) :
    step s = .next (s.setAgenda ms) := by
  rcases engine with ⟨q, errs, bytes, rfl⟩ | ⟨q, errs, rfl⟩ | ⟨q, rfl⟩ | ⟨gsc, rfl⟩ | ⟨v, rfl⟩
  · exact (step_of_noCommand move rfl).trans (dmaRxFill_disabled stopped.rx)
  · exact (step_of_noCommand move rfl).trans (dmaTxConsume_disabled stopped.tx)
  · exact (step_of_noCommand move rfl).trans (congrArg _ (dmaPollTick_disabled stopped.tx))
  · exact (step_of_noCommand move rfl).trans (congrArg _ (if_neg stopped.noStop))
  · exact (step_of_noCommand move rfl).trans (congrArg _ (dmaIdleUpdate_disabled stopped.rx stopped.tx))

/-! ### The moves on the engine's registers (45 R325 to R327) -/

/-- A graceful stop that was asked for is acknowledged, with `GSC` where the acknowledgment is reliable (45 R326). -/
theorem dmaStopAck_asked {gsc : Bool} (stop : s.dev.dmactrl = 3) (running : s.dev.stopAcked = false) :
    dmaStopAck gsc s = s.modDev fun d =>
      { d with stopAcked := true, idlestat := 3,
               devevent := if gsc = true ∨ s.stopAckUnreliable = false then 1 else d.devevent } := by
  rw [dmaStopAck, if_pos ⟨stop, running⟩]
  simp only [Bool.or_eq_true, Bool.not_eq_true']

theorem dmaPollTick_enabled (on : s.engineTxEnabled = true) :
    dmaPollTick q s = s.modEtx q fun e => { e with idle := false } := if_pos on

theorem dmaIdleUpdate_enabled {v : BitVec 2} (on : s.engineRxEnabled = true ∨ s.engineTxEnabled = true) :
    dmaIdleUpdate v s = s.modDev fun d => { d with idlestat := v } := if_pos (Bool.or_eq_true_iff.2 on)

/-! ### Memory after a write-back (45 R322, R324) -/

section
variable {mem : List Host.Cell} (sorted : (mem.map Prod.fst).Pairwise (· < ·))
include sorted

/-- A byte outside a word written is unchanged. -/
theorem readByte_writeWord_outside {x : Nat} (outside : x < a ∨ a + 4 ≤ x) :
    readByte (writeWord mem a w) x = readByte mem x :=
  readByte_writeBytes_outside _ _ _ _ sorted outside

/-- A frame's bytes in its buffer, below or above the descriptor written after them. -/
theorem readByte_rxWritten {i : Nat} (hi : i < bytes.length) (apart : buf + bytes.length ≤ a ∨ a + 16 ≤ buf) :
    readByte (writeWord (writeBytes mem buf bytes) a w) (buf + i) = bytes[i] := by
  rw [readByte_writeWord_outside (sorted_writeBytes _ _ _ sorted) (by omega),
    readByte_writeBytes_inside _ _ _ _ sorted hi]

/-- A byte neither of the frame nor of the word written after it. -/
theorem readByte_rxWritten_outside {x : Nat} (word : x < a ∨ a + 4 ≤ x)
    (frame : x < buf ∨ buf + bytes.length ≤ x) :
    readByte (writeWord (writeBytes mem buf bytes) a w) x = readByte mem x := by
  rw [readByte_writeWord_outside (sorted_writeBytes _ _ _ sorted) word,
    readByte_writeBytes_outside _ _ _ _ sorted frame]

end

/-- The word of a consumed TX descriptor keeps the length field (45 R324). -/
theorem txWriteback_eq : txWriteback w errs =
    ((statusOf w &&& 0x3800) ||| (if w.getLsbD 27 then errs else 0)) ++ w.extractLsb' 0 16 := by
  rw [txWriteback, lstatusOf, lengthOf, BitVec.ofNat_toNat, BitVec.setWidth_eq]
  rfl

/-- The error flags of a received frame: with `TRUNC` where it is longer than the buffer (log 22). -/
theorem rxFlags_eq {p : Prop} [Decidable p] :
    (if p then errs ||| truncFlag else errs) = errs ||| (if p then 1 else 0) := by
  split
  · rfl
  · exact BitVec.or_zero.symm

/-! ### A received frame (45 R322, R323) -/

/-- A received frame written back, before the coalescer's pulse. -/
def State.rxWritten (s : State) (q a : Nat) (w : Word) (buf : Nat) (errs : Half) (bytes : List Byte) : State :=
  (s.setMem (writeWord (writeBytes s.mem buf bytes) a (rxWriteback w errs bytes.length))).modErx q fun e =>
    { e with cur := engineNext w e.cur }

theorem State.rxStore_eq : s.rxStore q a w buf errs bytes =
    if w.getLsbD 28 then (s.rxWritten q a w buf errs bytes).coalescePulse .rx q
    else s.rxWritten q a w buf errs bytes := rfl

section
variable (on : s.engineRxEnabled = true) (exist : q < s.numRxq) (nonempty : 1 ≤ (bytes.take s.dev.rxBufSize).length)
  (legal : errs &&& ~~~rxErrMask = 0) (slot : (s.erx q).base.toNat + 16 * (s.erx q).cur = a)
  (inside : a + 16 ≤ addressSpace)
include on exist nonempty legal slot inside

/-- The engine's look at a slot it may fill, within its contract: what it comes to by the slot's word (45 R322). -/
theorem dmaRxFill_enabled : dmaRxFill q errs bytes s =
    if !engineOwned (readWord s.mem a) then .next s
    else if addressSpace < (readDWord s.mem (a + 8)).toNat + (bytes.take s.dev.rxBufSize).length then
      .fault .outsideAddressSpace
    else .next (s.rxStore q a (readWord s.mem a) (readDWord s.mem (a + 8)).toNat
      (errs ||| (if s.dev.rxBufSize < bytes.length then 1 else 0)) (bytes.take s.dev.rxBufSize)) := by
  have contract : ¬ (s.numRxq ≤ q ∨ bytes.take s.dev.rxBufSize = [] ∨ errs &&& ~~~rxErrMask ≠ 0) := by
    rintro (missing | empty | illegal)
    · omega
    · simp [empty] at nonempty
    · exact illegal legal
  simp only [dmaRxFill, slot, rxFlags_eq]
  rw [if_neg (by simp [on]), if_neg contract, if_neg (by omega)]

/-- A frame that arrives on a slot software owns is lost (45 R323). -/
theorem dmaRxFill_lost (owned : engineOwned (readWord s.mem a) = false) : dmaRxFill q errs bytes s = .next s := by
  rw [dmaRxFill_enabled on exist nonempty legal slot inside, if_pos (by simp [owned])]

/-- A frame that arrives on a slot of the engine is stored (45 R322). -/
theorem dmaRxFill_stored (owned : engineOwned (readWord s.mem a) = true)
    (fits : (readDWord s.mem (a + 8)).toNat + (bytes.take s.dev.rxBufSize).length ≤ addressSpace) :
    dmaRxFill q errs bytes s = .next (s.rxStore q a (readWord s.mem a) (readDWord s.mem (a + 8)).toNat
      (errs ||| (if s.dev.rxBufSize < bytes.length then 1 else 0)) (bytes.take s.dev.rxBufSize)) := by
  rw [dmaRxFill_enabled on exist nonempty legal slot inside, if_neg (by simp [owned]), if_neg (by omega)]

end

/-! ### A consumed descriptor (45 R324) -/

/-- A consumed descriptor written back, before the coalescer's pulse. -/
def State.txWritten (s : State) (q a : Nat) (w : Word) (errs : Half) : State :=
  (s.setMem (writeWord s.mem a (txWriteback w errs))).modEtx q fun e => { e with cur := engineNext w e.cur }

/-- The engine's look at a descriptor it may take: it goes idle, or it hands it back (45 R324). -/
theorem dmaTxConsume_enabled (on : s.engineTxEnabled = true) (awake : (s.etx q).idle = false) (exist : q < s.numTxq)
    (legal : errs &&& ~~~txErrMask = 0) (slot : (s.etx q).base.toNat + 16 * (s.etx q).cur = a)
    (inside : a + 16 ≤ addressSpace) : dmaTxConsume q errs s = .next (
    if engineOwned (readWord s.mem a) then
      if (readWord s.mem a).getLsbD 28 then (s.txWritten q a (readWord s.mem a) errs).coalescePulse .tx q
      else s.txWritten q a (readWord s.mem a) errs
    else s.modEtx q fun e => { e with idle := true }) := by
  have contract : ¬ (s.numTxq ≤ q ∨ errs &&& ~~~txErrMask ≠ 0) := by
    rintro (missing | illegal)
    · omega
    · exact illegal legal
  simp only [dmaTxConsume, slot]
  rw [if_neg (by simp [on, awake]), if_neg contract, if_neg (by omega)]
  cases owned : engineOwned (readWord s.mem a)
  · rfl
  · rfl

/-! ### The obligations -/

/-- Settles O50: the outcomes of `DMA_RX_FILL` by the owner of the slot, and the memory of a frame written back. -/
theorem rxFillHandsSlotBack : Obligations.RxFillHandsSlotBack := by
  intro s q errs bytes ms a w buf stored flags wf move on exist nonempty legal inside
  obtain ⟨sorted, -⟩ := wf
  have hq : q < 8 := Nat.lt_of_lt_of_le exist (Nat.min_le_left _ _)
  have performed : step s = dmaRxFill q errs bytes (s.setAgenda ms) := step_of_noCommand move rfl
  rw [performed]
  refine ⟨dmaRxFill_lost (s := s.setAgenda ms) on exist nonempty legal rfl inside, fun owned fits apart => ?_⟩
  exact ⟨(s.setAgenda ms).rxWritten q a w buf flags stored,
    (dmaRxFill_stored (s := s.setAgenda ms) on exist nonempty legal rfl inside owned fits).trans
      (congrArg _ State.rxStore_eq),
    readWord_writeWord _ _ _ (sorted_writeBytes _ _ _ sorted), fun i hi => readByte_rxWritten sorted hi apart,
    fun x word frame => readByte_rxWritten_outside sorted word frame, State.erx_modErx_same _ _ _ hq,
    fun q' ne => State.erx_modErx_other _ _ ne.symm, rfl⟩

/-- Settles O51: the outcomes of `DMA_TX_CONSUME` by the ownership flag, and the memory of a word written back. -/
theorem txConsumeHandsSlotBack : Obligations.TxConsumeHandsSlotBack := by
  intro s q errs ms a w wf move on awake exist legal inside
  obtain ⟨sorted, -⟩ := wf
  have hq : q < 8 := Nat.lt_of_lt_of_le exist (Nat.min_le_left _ _)
  have performed : step s = dmaTxConsume q errs (s.setAgenda ms) := step_of_noCommand move rfl
  rw [performed, dmaTxConsume_enabled (s := s.setAgenda ms) on awake exist legal rfl inside]
  refine ⟨fun owned => congrArg _ (if_neg (ne_true_of_eq_false owned)), fun owned => ?_⟩
  exact ⟨(s.setAgenda ms).txWritten q a w errs, congrArg _ (if_pos owned),
    (readWord_writeWord _ _ _ sorted).trans txWriteback_eq, fun x outside => readByte_writeWord_outside sorted outside,
    State.etx_modEtx_same _ _ _ hq, fun q' ne => State.etx_modEtx_other _ _ ne.symm, rfl⟩

/-- Settles O52: a stopped engine's moves, the acknowledgment, the poll tick and the idle bits, clause by clause. -/
theorem engineControlled : Obligations.EngineControlled := by
  intro s ms
  refine ⟨fun m move stopped engine => step_of_engineStopped move stopped engine, fun gsc move stop running => ?_,
    fun dma running => ⟨fun q move txOn => ?_, fun v move macOn => ?_⟩⟩
  · exact (step_of_noCommand move rfl).trans (congrArg _ (dmaStopAck_asked (s := s.setAgenda ms) stop running))
  · have on : s.engineTxEnabled = true := State.engineTxEnabled_iff.2 ⟨dma, txOn, running⟩
    exact (step_of_noCommand move rfl).trans (congrArg _ (dmaPollTick_enabled (s := s.setAgenda ms) on))
  · have on : s.engineRxEnabled = true ∨ s.engineTxEnabled = true :=
      (getLsbD_of_ne_zero macOn).imp (fun rxOn => State.engineRxEnabled_iff.2 ⟨dma, rxOn, running⟩)
        fun txOn => State.engineTxEnabled_iff.2 ⟨dma, txOn, running⟩
    exact (step_of_noCommand move rfl).trans (congrArg _ (dmaIdleUpdate_enabled (s := s.setAgenda ms) on))

end Sys2Proof.Machine

/-! SUPPORT and PROOFS. The recorded fault and the interrupt handler (spec 60 R355, R370 to R372; 20 R111): no step
clears `LASTERR`, and what `IRQ` comes to. -/

namespace Sys2Proof.Machine

variable {s t : State} {g : Nat}

/-! ### The recorded fault (60 R355) -/

/-- No atomic update takes `LASTERR` back to no fault: the one update of the device keeps it or records a fault. -/
theorem Update.lastErr_ne_none (h : Update s t) (hs : s.dev.lastErr ≠ .none) : t.dev.lastErr ≠ .none := by
  cases h with
  | dev f keepsOrRecords =>
    rcases keepsOrRecords s.dev with kept | recorded
    · exact fun none => hs (kept.symm.trans none)
    · exact recorded
  | coalescer k => cases k <;> exact hs
  | _ => exact hs

/-- Settles O60, by the step lemma: a step is a sequence of atomic updates, and none of them clears the fault. -/
theorem stepNeverClearsFault : Obligations.StepNeverClearsFault :=
  fun _ _ hs h => step_keeps (I := fun u => u.dev.lastErr ≠ .none) (fun _ _ hs hu => hu.lastErr_ne_none hs) hs h

/-! ### `IRQ` (60 R371, R372) -/

/-- The tests of `IRQ`: a group that does not exist. -/
theorem irqCheck_noGroup (absent : s.numGroups ≤ g) : irqCheck g s = .errBadArg := by
  simp [irqCheck, State.hasGroup, absent]

/-- The tests of `IRQ`: past the first, the device's state and the line decide. -/
theorem irqCheck_group (exist : g < s.numGroups) :
    irqCheck g s = if s.dev.devState ≠ .up ∨ s.line g = false then .errNotPending else .ok := by
  simp [irqCheck, State.hasGroup, exist]

/-- `IRQ` turned away by a test changes nothing but its result (60 R371). -/
theorem ends_progIrq_of_code {v : Code} (check : irqCheck g s = v) (notOk : v ≠ .ok) :
    (progIrq g).Ends s (Result.only v) s := by
  simp [progIrq, check, notOk]

/-- `try_schedule` leaves the poll scheduled, whether it wins or loses (20 R111). -/
theorem ends_trySchedule {k : Bool → Prog} {r : Result} : (trySchedule g k).Ends s r t ↔
    (k (!(s.grp g).pollScheduled)).Ends (s.modGrp g fun x => { x with pollScheduled := true }) r t := by
  rw [trySchedule, Prog.ends_testAndSet]
  cases poll : (s.grp g).pollScheduled with
  | false => rfl
  | true => rw [State.modGrp_self s g _ (by simp [← poll])]; rfl

/-- `IRQ` on a raised line masks, then schedules the poll: it wins where the poll is not scheduled yet (60 R372). -/
theorem ends_progIrq_raised (hg : g < 8) (check : irqCheck g s = .ok) :
    (progIrq g).Ends s { code := .ok, rval0 := some (if (s.grp g).pollScheduled then 0 else 1), rval1 := none }
      (s.modGrp g fun x => { x with imask := x.imask &&& ~~~rtx, pollScheduled := true }) := by
  have won : boolResult (!(s.grp g).pollScheduled) = if (s.grp g).pollScheduled then 0 else 1 := by
    cases (s.grp g).pollScheduled <;> rfl
  have masked : s.setImask g ((s.grp g).imask &&& ~~~rtx) =
      s.modGrp g fun x => { x with imask := x.imask &&& ~~~rtx } := rfl
  simp [progIrq, check, ends_trySchedule, masked, State.modGrp_modGrp, hg, won]

/-- Settles O13: a group that does not exist, a line that is not raised or a device that is not `UP`, and the line
raised while `UP`. -/
theorem irqMasksAndSchedules : Obligations.IrqMasksAndSchedules := by
  intro ctx g s
  simp only [exec_eq_execute]
  refine ⟨fun absent => ?_, fun exist quiet => ?_, fun exist up raised => ?_⟩
  · exact execute_of_ends (ends_progIrq_of_code (irqCheck_noGroup absent) (by decide))
  · have check : irqCheck g.toNat s = .errNotPending := by rw [irqCheck_group exist, if_pos quiet]
    exact execute_of_ends (ends_progIrq_of_code check (by decide))
  · have check : irqCheck g.toNat s = .ok := by rw [irqCheck_group exist, if_neg (by simp [up, raised])]
    exact execute_of_ends (ends_progIrq_raised (Nat.lt_of_lt_of_le exist (Nat.min_le_left _ _)) check)

end Sys2Proof.Machine

/-! SUPPORT and PROOFS. The coalescer (spec 10 R37, R38; 60 R366 to R368): a pulse and a tick write the counters of a
queue and evaluate them at once, and a tick of the block does so for every queue, one after another. -/

namespace Sys2Proof.Machine

variable {s t u : State} {k : Kind} {q g p e : Nat}

/-! ### What the coalescer writes (10 R38; 60 R366 to R368) -/

/-- From `s` to `t` only the coalescer's counters and the groups' event bits may have changed. -/
structure State.CoalescerWrites (s t : State) : Prop where
  rx : ∀ q, t.rx q = { s.rx q with pend := t.pend .rx q, elapsed := t.elapsed .rx q }
  tx : ∀ q, t.tx q = { s.tx q with pend := t.pend .tx q, elapsed := t.elapsed .tx q }
  grp : ∀ g, t.grp g = { s.grp g with ievent := (t.grp g).ievent }
  rest : t = { s with rxq := t.rxq, txq := t.txq, groups := t.groups }

namespace State.CoalescerWrites

theorem refl (s : State) : s.CoalescerWrites s := ⟨fun _ => rfl, fun _ => rfl, fun _ => rfl, rfl⟩

theorem trans (h : s.CoalescerWrites t) (h' : t.CoalescerWrites u) : s.CoalescerWrites u where
  rx q := (h'.rx q).trans (by rw [h.rx q])
  tx q := (h'.tx q).trans (by rw [h.tx q])
  grp g := (h'.grp g).trans (by rw [h.grp g])
  rest := h'.rest.trans (by rw [h.rest])

/-- The coalescing pairs stay. -/
theorem ic_eq (h : s.CoalescerWrites t) (k : Kind) (q : Nat) : t.ic k q = s.ic k q := by
  cases k with
  | rx => rw [State.ic, h.rx q]; rfl
  | tx => rw [State.ic, h.tx q]; rfl

/-- The group that reports a queue stays: it depends on the count of groups and their bitmaps (10 R37). -/
theorem grpOf_eq (h : s.CoalescerWrites t) (k : Kind) (q : Nat) : t.grpOf k q = s.grpOf k q := by
  have count : t.numGroups = s.numGroups := by rw [h.rest]; rfl
  have bitmap (g : Nat) : groupBitmap (t.grp g) k = groupBitmap (s.grp g) k := by rw [h.grp g]; cases k <;> rfl
  simp only [State.grpOf, State.groupsOf, count, bitmap]

end State.CoalescerWrites

/-- A write of the two counters of one queue. -/
theorem State.coalescerWrites_setCoalescer : s.CoalescerWrites (s.setCoalescer k q p e) := by
  cases k with
  | rx =>
    refine ⟨fun j => ?_, fun _ => rfl, fun _ => rfl, rfl⟩
    simp only [State.pend, State.elapsed, State.setCoalescer, State.rx_modRx]
    split
    · rename_i same
      rw [same.1]
    · rfl
  | tx =>
    refine ⟨fun _ => rfl, fun j => ?_, fun _ => rfl, rfl⟩
    simp only [State.pend, State.elapsed, State.setCoalescer, State.tx_modTx]
    split
    · rename_i same
      rw [same.1]
    · rfl

/-- An event sets its bits of its group and of no other group (60 R368). -/
theorem State.grp_raiseEvent_same {b : BitVec 2} (hg : g < 8) :
    (s.raiseEvent (some g) b).grp g = { s.grp g with ievent := (s.grp g).ievent ||| b } :=
  State.grp_modGrp_same _ _ _ hg

theorem State.grp_raiseEvent_other {o : Option Nat} {b : BitVec 2} (other : o ≠ some g) :
    (s.raiseEvent o b).grp g = s.grp g := by
  cases o with
  | none => rfl
  | some j => exact State.grp_modGrp_other _ _ fun same => other (congrArg some same)

theorem State.coalescerWrites_raiseEvent {o : Option Nat} {b : BitVec 2} : s.CoalescerWrites (s.raiseEvent o b) := by
  cases o with
  | none => exact .refl s
  | some j =>
    refine ⟨fun _ => rfl, fun _ => rfl, fun g => ?_, rfl⟩
    rw [State.raiseEvent, State.grp_modGrp]
    split
    · rename_i same
      rw [same.1]
    · rfl

/-! ### The two counters of a queue (10 R38) -/

/-- The coalescer's counters of a queue: the count of pulses and the ticks since the first. -/
def State.counters (s : State) (k : Kind) (q : Nat) : Nat × Nat := (s.pend k q, s.elapsed k q)

theorem State.counters_setCoalescer_same (hq : q < 8) : (s.setCoalescer k q p e).counters k q = (p, e) := by
  cases k with
  | rx => simp only [counters, pend, elapsed, setCoalescer, State.rx_modRx_same _ _ _ hq]
  | tx => simp only [counters, pend, elapsed, setCoalescer, State.tx_modTx_same _ _ _ hq]

theorem State.counters_setCoalescer_other {k' : Kind} {j : Nat} (other : (k, q) ≠ (k', j)) :
    (s.setCoalescer k q p e).counters k' j = s.counters k' j := by
  cases k <;> cases k'
  case rx.tx => rfl
  case tx.rx => rfl
  all_goals
    have ne : q ≠ j := fun same => other (by rw [same])
    simp [counters, pend, elapsed, setCoalescer, ne]

/-- Writing back the counters that are there changes nothing. -/
theorem State.setCoalescer_counters : s.setCoalescer k q (s.pend k q) (s.elapsed k q) = s := by
  cases k
  · exact State.modRx_self s q (fun r => { r with pend := (s.rx q).pend, elapsed := (s.rx q).elapsed }) rfl
  · exact State.modTx_self s q (fun r => { r with pend := (s.tx q).pend, elapsed := (s.tx q).elapsed }) rfl

theorem State.counters_raiseEvent {o : Option Nat} {b : BitVec 2} {k' : Kind} {j : Nat} :
    (s.raiseEvent o b).counters k' j = s.counters k' j := by
  cases o <;> cases k' <;> rfl

theorem State.grp_setCoalescer : (s.setCoalescer k q p e).grp g = s.grp g := by
  cases k <;> rfl

theorem State.groups_setCoalescer : (s.setCoalescer k q p e).groups = s.groups := by
  cases k <;> rfl

/-- A queue beyond the 8 register blocks has no counters. -/
theorem State.counters_outside (hq : ¬ q < 8) : s.counters k q = (0, 0) := by
  cases k with
  | rx => simp only [counters, pend, elapsed, rx, bankGet, dif_neg hq]; rfl
  | tx => simp only [counters, pend, elapsed, tx, bankGet, dif_neg hq]; rfl

/-! ### Counters written and evaluated at once (60 R366 to R368) -/

/-- The condition of a fire on a pair and two counters (60 R368). -/
@[reducible] def Coalesce.Fires (v : Coalesce) (p e : Nat) : Prop :=
  p ≠ 0 ∧ (v.maxFrames.toNat ≤ p ∨ v.maxDelay.toNat ≤ e)

/-- The counters of a queue written and evaluated at once, as a pulse and a tick do. -/
def State.evaluated (s : State) (k : Kind) (q p e : Nat) : State := (s.setCoalescer k q p e).coalesceEval k q

/-- A pulse writes the risen count; the first pulse restarts the ticks (60 R366). -/
theorem State.coalescePulse_eq : s.coalescePulse k q =
    s.evaluated k q (min 255 (s.pend k q + 1)) (if s.pend k q = 0 then 0 else s.elapsed k q) := rfl

theorem State.coalesceDue_setCoalescer (hq : q < 8) :
    (s.setCoalescer k q p e).coalesceDue k q = true ↔ (s.ic k q).Fires p e := by
  obtain ⟨pend, elapsed⟩ := Prod.mk.inj (s.counters_setCoalescer_same (k := k) (p := p) (e := e) hq)
  simp [coalesceDue, Coalesce.Fires, pend, elapsed, coalescerWrites_setCoalescer.ic_eq, Nat.one_le_iff_ne_zero]

/-- Where a threshold is reached, the event of the queue's group is set and the counters restart (60 R368). -/
theorem State.evaluated_of_fires (hq : q < 8) (fires : (s.ic k q).Fires p e) : s.evaluated k q p e =
    ((s.setCoalescer k q p e).raiseEvent (s.grpOf k q) (eventBit k)).setCoalescer k q 0 0 := by
  rw [evaluated, coalesceEval, if_pos ((coalesceDue_setCoalescer hq).2 fires), coalescerWrites_setCoalescer.grpOf_eq]

/-- Where no threshold is reached, the counters are written and nothing more. -/
theorem State.evaluated_of_not_fires (hq : q < 8) (quiet : ¬ (s.ic k q).Fires p e) :
    s.evaluated k q p e = s.setCoalescer k q p e := by
  rw [evaluated, coalesceEval, if_neg fun due => quiet ((coalesceDue_setCoalescer hq).1 due)]

theorem State.coalescerWrites_evaluated : s.CoalescerWrites (s.evaluated k q p e) := by
  rw [evaluated, coalesceEval]
  split
  · exact coalescerWrites_setCoalescer.trans (coalescerWrites_raiseEvent.trans coalescerWrites_setCoalescer)
  · exact coalescerWrites_setCoalescer

theorem State.counters_evaluated_other {k' : Kind} {j : Nat} (other : (k, q) ≠ (k', j)) :
    (s.evaluated k q p e).counters k' j = s.counters k' j := by
  rw [evaluated, coalesceEval]
  split
  · rw [counters_setCoalescer_other other, counters_raiseEvent, counters_setCoalescer_other other]
  · rw [counters_setCoalescer_other other]

theorem State.counters_evaluated_same (hq : q < 8) : (s.evaluated k q p e).counters k q =
    if (s.ic k q).Fires p e then (0, 0) else (p, e) := by
  split
  · rename_i fires
    rw [evaluated_of_fires hq fires, counters_setCoalescer_same hq]
  · rename_i quiet
    rw [evaluated_of_not_fires hq quiet, counters_setCoalescer_same hq]

/-- The group that reports a queue that fires gets the event of its kind. -/
theorem State.grp_evaluated_raised (hq : q < 8) (hg : g < 8) (fires : (s.ic k q).Fires p e)
    (reports : s.grpOf k q = some g) :
    (s.evaluated k q p e).grp g = { s.grp g with ievent := (s.grp g).ievent ||| eventBit k } := by
  rw [evaluated_of_fires hq fires, reports, grp_setCoalescer, grp_raiseEvent_same hg, grp_setCoalescer]

/-- Any other group, and every group where the queue does not fire, stays as it is. -/
theorem State.grp_evaluated_quiet (hq : q < 8) (quiet : ¬ ((s.ic k q).Fires p e ∧ s.grpOf k q = some g)) :
    (s.evaluated k q p e).grp g = s.grp g := by
  by_cases fires : (s.ic k q).Fires p e
  · rw [evaluated_of_fires hq fires, grp_setCoalescer, grp_raiseEvent_other fun reports => quiet ⟨fires, reports⟩,
      grp_setCoalescer]
  · rw [evaluated_of_not_fires hq fires, grp_setCoalescer]

/-! ### A tick of one queue (60 R367) -/

/-- The ticks of a queue after a tick: they rise where a pulse is pending. -/
@[reducible] def State.ticks (s : State) (k : Kind) (q : Nat) : Nat :=
  if s.pend k q = 0 then s.elapsed k q else min 65535 (s.elapsed k q + 1)

/-- A tick reaches a threshold of the queue. -/
@[reducible] def State.tickFires (s : State) (k : Kind) (q : Nat) : Prop := (s.ic k q).Fires (s.pend k q) (s.ticks k q)

/-- The counters of a queue after a tick. -/
def State.tickedCounters (s : State) (k : Kind) (q : Nat) : Nat × Nat :=
  (if s.tickFires k q then 0 else s.pend k q, if s.tickFires k q then 0 else s.ticks k q)

/-- A tick writes the risen ticks and evaluates them; without a pending pulse that changes nothing. -/
theorem State.tickQueue_eq (hq : q < 8) : s.tickQueue (k, q) = s.evaluated k q (s.pend k q) (s.ticks k q) := by
  rw [tickQueue, ticks]
  by_cases none : s.pend k q = 0
  · rw [if_pos none, if_pos none, evaluated_of_not_fires hq fun fires => fires.1 none, setCoalescer_counters]
  · rw [if_neg none, if_neg none]
    rfl

theorem State.counters_tickQueue_same (hq : q < 8) : (s.tickQueue (k, q)).counters k q = s.tickedCounters k q := by
  rw [tickQueue_eq hq, counters_evaluated_same hq, tickedCounters]
  split <;> rfl

section
variable {x : Kind × Nat} (hx : x.2 < 8)
include hx

theorem State.coalescerWrites_tickQueue : s.CoalescerWrites (s.tickQueue x) := by
  rw [tickQueue_eq hx]
  exact coalescerWrites_evaluated

theorem State.counters_tickQueue_other (other : x ≠ (k, q)) : (s.tickQueue x).counters k q = s.counters k q := by
  rw [tickQueue_eq hx, counters_evaluated_other other]

/-- A tick of one queue leaves what the tick of another does. -/
theorem State.ticks_tickQueue_other (other : x ≠ (k, q)) : (s.tickQueue x).pend k q = s.pend k q ∧
    (s.tickQueue x).ticks k q = s.ticks k q ∧ ((s.tickQueue x).tickFires k q ↔ s.tickFires k q) := by
  obtain ⟨pend, elapsed⟩ := Prod.mk.inj (counters_tickQueue_other (s := s) hx other)
  simp only [tickFires, ticks, pend, elapsed, (coalescerWrites_tickQueue hx).ic_eq, and_self]

end

/-! ### A tick of a list of queues -/

/-- The tick of queue `x` sets the event bit of kind `k` of group `g`. -/
def State.tickRaises (s : State) (k : Kind) (g : Nat) (x : Kind × Nat) : Prop :=
  x.1 = k ∧ s.tickFires x.1 x.2 ∧ s.grpOf x.1 x.2 = some g

/-- The bit of a kind's event in `IEVENT` (30 R134). -/
def eventIndex : Kind → Nat
  | .rx => 0
  | .tx => 1

theorem getLsbD_eventBit (k k' : Kind) : (eventBit k').getLsbD (eventIndex k) = true ↔ k' = k := by
  cases k <;> cases k' <;> decide

theorem State.event_tickQueue {x : Kind × Nat} (hx : x.2 < 8) (hg : g < 8) :
    ((s.tickQueue x).grp g).ievent.getLsbD (eventIndex k) = true ↔
      (s.grp g).ievent.getLsbD (eventIndex k) = true ∨ s.tickRaises k g x := by
  rw [tickQueue_eq hx]
  by_cases raised : s.tickFires x.1 x.2 ∧ s.grpOf x.1 x.2 = some g
  · obtain ⟨fires, reports⟩ := raised
    rw [grp_evaluated_raised hx hg fires reports, BitVec.getLsbD_or, Bool.or_eq_true, getLsbD_eventBit, tickRaises,
      and_iff_left ⟨fires, reports⟩]
  · rw [grp_evaluated_quiet hx raised, tickRaises, or_iff_left fun raises => raised raises.2]

variable {l : List (Kind × Nat)}

theorem State.coalescerWrites_tickQueues (inside : ∀ x ∈ l, x.2 < 8) :
    s.CoalescerWrites (l.foldl State.tickQueue s) := by
  induction l generalizing s with
  | nil => exact .refl s
  | cons x l ih =>
    obtain ⟨hx, hl⟩ := List.forall_mem_cons.1 inside
    exact (coalescerWrites_tickQueue hx).trans (ih hl)

/-- Each queue of the list is ticked once, and no other. -/
theorem State.counters_tickQueues (inside : ∀ x ∈ l, x.2 < 8) (distinct : l.Nodup) :
    (l.foldl State.tickQueue s).counters k q = if (k, q) ∈ l then s.tickedCounters k q else s.counters k q := by
  induction l generalizing s with
  | nil => rfl
  | cons x l ih =>
    obtain ⟨hx, hl⟩ := List.forall_mem_cons.1 inside
    obtain ⟨fresh, rest⟩ := List.nodup_cons.1 distinct
    rw [List.foldl_cons, ih hl rest]
    by_cases same : x = (k, q)
    · subst same
      rw [if_neg fresh, if_pos List.mem_cons_self, counters_tickQueue_same hx]
    · obtain ⟨pend, ticks, fires⟩ := ticks_tickQueue_other (s := s) hx same
      simp only [tickedCounters, pend, ticks, fires, counters_tickQueue_other hx same, List.mem_cons, Ne.symm same,
        false_or]

/-- The events set are those of the queues of the list whose tick fires. -/
theorem State.event_tickQueues (inside : ∀ x ∈ l, x.2 < 8) (distinct : l.Nodup) (hg : g < 8) :
    ((l.foldl State.tickQueue s).grp g).ievent.getLsbD (eventIndex k) = true ↔
      (s.grp g).ievent.getLsbD (eventIndex k) = true ∨ ∃ x ∈ l, s.tickRaises k g x := by
  induction l generalizing s with
  | nil => simp
  | cons x l ih =>
    obtain ⟨hx, hl⟩ := List.forall_mem_cons.1 inside
    obtain ⟨fresh, rest⟩ := List.nodup_cons.1 distinct
    have others : ∀ y ∈ l, ((s.tickQueue x).tickRaises k g y ↔ s.tickRaises k g y) := by
      intro y hy
      have other : x ≠ y := fun same => fresh (same ▸ hy)
      obtain ⟨-, -, fires⟩ := ticks_tickQueue_other (s := s) hx other
      rw [tickRaises, tickRaises, fires, (coalescerWrites_tickQueue hx).grpOf_eq]
    rw [List.foldl_cons, ih hl rest, event_tickQueue hx hg, or_assoc, exists_congr fun y => and_congr_right (others y)]
    simp only [List.mem_cons, exists_eq_or_imp]

/-! ### The tick of the block (60 R367) -/

theorem mem_allQueues : (k, q) ∈ allQueues ↔ q < 8 := by
  cases k <;> simp [allQueues]

theorem allQueues_inside : ∀ x ∈ allQueues, x.2 < 8 := fun _ hx => mem_allQueues.1 hx

theorem allQueues_nodup : allQueues.Nodup := by decide

/-- The tick ticks every queue; a queue beyond the 8 register blocks has nothing to tick. -/
theorem State.counters_coalesceTick : (coalesceTick s).counters k q = s.tickedCounters k q := by
  rw [coalesceTick, counters_tickQueues allQueues_inside allQueues_nodup]
  by_cases hq : q < 8
  · rw [if_pos (mem_allQueues.2 hq)]
  · obtain ⟨pend, elapsed⟩ := Prod.mk.inj (s.counters_outside (k := k) hq)
    rw [if_neg fun mem => hq (mem_allQueues.1 mem), counters_outside hq]
    simp [tickedCounters, ticks, pend, elapsed]

theorem State.coalescerWrites_coalesceTick : s.CoalescerWrites (coalesceTick s) :=
  coalescerWrites_tickQueues allQueues_inside

theorem State.event_coalesceTick (hg : g < 8) : ((coalesceTick s).grp g).ievent.getLsbD (eventIndex k) = true ↔
    (s.grp g).ievent.getLsbD (eventIndex k) = true ∨ ∃ q, q < 8 ∧ s.tickFires k q ∧ s.grpOf k q = some g := by
  rw [coalesceTick, event_tickQueues allQueues_inside allQueues_nodup hg]
  refine or_congr_right ⟨?_, ?_⟩
  · rintro ⟨⟨k', q⟩, mem, rfl, fires, reports⟩
    exact ⟨q, mem_allQueues.1 mem, fires, reports⟩
  · rintro ⟨q, hq, fires, reports⟩
    exact ⟨(k, q), mem_allQueues.2 hq, rfl, fires, reports⟩

/-! ### The obligation -/

/-- A queue that one group reports has that group, one of the 8 register blocks (10 R37). -/
theorem State.grpOf_of_groupsOf (reports : s.groupsOf k q = [g]) : s.grpOf k q = some g ∧ g < 8 := by
  have mem : g ∈ s.groupsOf k q := by simp [reports]
  have exist : g < s.numGroups := List.mem_range.1 (List.mem_filter.1 mem).1
  exact ⟨by rw [grpOf, reports], Nat.lt_of_lt_of_le exist (Nat.min_le_left _ _)⟩

/-- Settles O53: a pulse and a tick each write the counters and evaluate them; a tick does so once for every queue. -/
theorem coalescerFiresAtThreshold : Obligations.CoalescerFiresAtThreshold := by
  refine ⟨fun s k q g hq reports => ?_, fun s ms move => ?_⟩
  · intro p e t
    obtain ⟨group, hg⟩ := State.grpOf_of_groupsOf reports
    have pulse : t = s.evaluated k q p e := s.coalescePulse_eq
    have writes : s.CoalescerWrites t := pulse ▸ State.coalescerWrites_evaluated
    have counters := s.counters_evaluated_same (k := k) (p := p) (e := e) hq
    rw [← pulse] at counters
    refine ⟨fun reached => ?_, fun frames delay => ?_, writes.ic_eq k q, writes.rest⟩
    · have fires : (s.ic k q).Fires p e := ⟨by omega, reached⟩
      obtain ⟨pend, elapsed⟩ := Prod.mk.inj (counters.trans (if_pos fires))
      refine ⟨pend, elapsed, ?_, fun g' other => ?_⟩
      · rw [pulse, State.grp_evaluated_raised hq hg fires group]
        cases k <;> rfl
      · rw [pulse, State.grp_evaluated_quiet hq]
        rintro ⟨-, reports'⟩
        exact other (Option.some.inj (reports'.symm.trans group))
    · have quiet : ¬ (s.ic k q).Fires p e := by rintro ⟨-, _ | _⟩ <;> omega
      obtain ⟨pend, elapsed⟩ := Prod.mk.inj (counters.trans (if_neg quiet))
      exact ⟨pend, elapsed, by rw [pulse, State.evaluated_of_not_fires hq quiet, State.groups_setCoalescer]⟩
  · have writes : (s.setAgenda ms).CoalescerWrites (coalesceTick (s.setAgenda ms)) := State.coalescerWrites_coalesceTick
    exact ⟨_, step_of_noCommand move rfl, fun k q => Prod.mk.inj State.counters_coalesceTick,
      fun q => ⟨writes.rx q, writes.tx q⟩,
      fun g hg => ⟨writes.grp g, State.event_coalesceTick (k := .rx) hg, State.event_coalesceTick (k := .tx) hg⟩,
      writes.rest⟩

end Sys2Proof.Machine

/-! SUPPORT and PROOFS. The state after reset (spec 10 R50, 70 R401; 44 R281, R296): what each register reads as, for
every value of the parameters, and why `START` refuses that configuration. -/

namespace Sys2Proof.Machine

variable (p : Params)

/-! ### The banks of registers after reset (10 R50) -/

@[simp] theorem State.rx_resetWith (q : Nat) : (resetWith p).rx q = RxQueue.reset := bankGet_replicate 8 _ q

@[simp] theorem State.tx_resetWith (q : Nat) : (resetWith p).tx q = TxQueue.reset := bankGet_replicate 8 _ q

@[simp] theorem State.grp_resetWith (g : Nat) : (resetWith p).grp g = Group.reset := bankGet_replicate 8 _ g

@[simp] theorem State.bank_resetWith (c : Nat) : (resetWith p).bank c = Bank.reset := bankGet_replicate 16 _ c

@[simp] theorem State.etx_resetWith (q : Nat) : (resetWith p).etx q = EngineTx.reset := bankGet_replicate 8 _ q

@[simp] theorem State.dev_resetWith : (resetWith p).dev = Device.reset p := rfl

/-- All eight counters and their copies are 0 (10 R46). -/
theorem State.counters_resetWith (k : Nat) :
    bankGet (resetWith p).stats 0 k = 0 ∧ bankGet (resetWith p).snap 0 k = 0 :=
  ⟨bankGet_replicate 8 0 k, bankGet_replicate 8 0 k⟩

/-! ### Queues of either kind after reset -/

section
variable (k : Kind) (q : Nat)

@[simp] theorem State.ringAlloc_resetWith : (resetWith p).ringAlloc k q = false := by
  cases k with
  | rx => simp [ringAlloc, RxQueue.reset]
  | tx => simp [ringAlloc, TxQueue.reset]

@[simp] theorem State.pend_resetWith : (resetWith p).pend k q = 0 := by
  cases k with
  | rx => simp [pend, RxQueue.reset]
  | tx => simp [pend, TxQueue.reset]

@[simp] theorem State.elapsed_resetWith : (resetWith p).elapsed k q = 0 := by
  cases k with
  | rx => simp [elapsed, RxQueue.reset]
  | tx => simp [elapsed, TxQueue.reset]

@[simp] theorem State.ic_resetWith : (resetWith p).ic k q = ⟨1, 0⟩ := by
  cases k with
  | rx => simp [ic, RxQueue.reset]
  | tx => simp [ic, TxQueue.reset]

end

/-! ### Nothing is held or in progress after reset -/

theorem State.quiescent_resetWith : (resetWith p).quiescent := fun c _ => by simp [Bank.reset]

theorem State.locksFree_resetWith : (resetWith p).locksFree := by
  intro n
  cases n with
  | pool => rfl
  | rx q => simp [lockOf, RxQueue.reset]
  | tx q => simp [lockOf, TxQueue.reset]

/-- No buffer has been described to the model yet (10 R50). -/
theorem State.live_resetWith (h : Handle) : (resetWith p).live h = false := rfl

/-! ### Why `START` refuses the configuration after reset (44 R281) -/

theorem legalRingSize_zero : legalRingSize 0 = false := by decide

/-- A configuration with an RX queue whose ring size is not a legal one is refused (00 R9, 44 R281). -/
theorem State.configOk_of_illegal_rx_size {s : State} {q : Nat} (exist : q < s.rxCountField)
    (illegal : legalRingSize (s.rx q).size.toNat = false) : s.configOk = false := by
  have sizes : ((List.range s.rxCountField).all fun j => legalRingSize (s.rx j).size.toNat) = false :=
    List.all_eq_false.2 ⟨q, List.mem_range.2 exist, by simp [illegal]⟩
  simp [configOk, sizes]

/-- RX queue 0 exists, and its ring size is 0. -/
theorem State.configOk_resetWith : (resetWith p).configOk = false := by
  have exist : 0 < (resetWith p).rxCountField := by simp [rxCountField, Device.reset]
  exact configOk_of_illegal_rx_size (q := 0) exist (by simp [RxQueue.reset, legalRingSize_zero])

/-! ### The obligation -/

/-- Settles O5: a register of the device or the pool is read off `State.resetWith`; a clause on the banks, for every
index, is the lemma on their reads above. -/
theorem resetState : Obligations.ResetState := fun p =>
  ⟨rfl, State.ringAlloc_resetWith p, fun g => by simp [Group.reset], rfl, rfl, fun c => by simp [Bank.reset],
    rfl, rfl, rfl, rfl, rfl, rfl, rfl, State.live_resetWith p, State.counters_resetWith p,
    fun c => by simp [Bank.reset], fun k q => by simp, rfl, rfl, rfl, State.quiescent_resetWith p,
    State.locksFree_resetWith p, State.ic_resetWith p, rfl, fun q => by simp [RxQueue.reset, TxQueue.reset],
    fun g => by simp [Group.reset], State.configOk_resetWith p, fun q => by simp [EngineTx.reset], rfl⟩

end Sys2Proof.Machine
